-- ==== Sys2Proof/Word.lean ====
section
/-! DEFINITION. The words that cross the core's ports (spec 30_encoding R51 to R54) and the few closed name sets:
the running disparity, the three instances, the two disparity accessors. -/

namespace Sys2Proof

/-- A byte value, `BYTE_W = 8` bits, bit 7 most significant (R5, R39). -/
abbrev Byte := BitVec 8

/-- A line symbol or raw line word, `SYM_W = 10` bits, bit 9 = a sent first (R5, R40, R41). -/
abbrev Sym := BitVec 10

/-- Format `ENC_IN = {k, d[7:0]}`: bit 8 is the control flag, bits 7:0 the byte (R51). -/
abbrev EncWord := BitVec 9

/-- Format `DEC_OUT = {invalid, disp_err, k, d[7:0]}` (R53). -/
abbrev DecOut := BitVec 11

/-- The two states of the disparity state machine, `RDneg` (RD = -1) and `RDpos` (RD = +1); no other exists (R123). -/
inductive RD where
  /-- RD = -1, register bit 0 (R21). -/
  | neg
  /-- RD = +1, register bit 1 (R21). -/
  | pos
deriving DecidableEq, Repr

/-- The three sequential blocks; each owns its state exclusively (R18). -/
inductive Inst where
  /-- The encoder `8b10b_encoder`. -/
  | enc
  /-- The decoder `8b10b_decoder`. -/
  | dec
  /-- The comma detector `comma_detector`. -/
  | cd
deriving DecidableEq, Repr

/-- The two read-only disparity accessors, `enc.disp` and `dec.disp` (R126). -/
inductive Accessor where
  /-- `enc.disp`. -/
  | enc
  /-- `dec.disp`. -/
  | dec
deriving DecidableEq, Repr

end Sys2Proof
end

