-- ==== Sys2Proof/Config.lean ====
section
/-! DEFINITION. What is fixed for the core (R5) and the values the spec leaves open ("draw", R10): each open value is an
opaque constant without a body, so no proof can see what it is. -/

namespace Sys2Proof.Config

/-- Width of a byte value (R5). -/
abbrev byteWidth : Nat := 8

/-- Width of a line symbol (R5). -/
abbrev symWidth : Nat := 10

/-- Width of an encoder input word, 8 + 1 (R68). -/
abbrev encInWidth : Nat := 9

/-- `N_K`, the number of legal control codes (R5). -/
abbrev controlCodes : Nat := 12

/-- `RD_RESET` of the encoder and of the decoder (R5, R170). -/
abbrev rdReset : RD := .neg

/-! ## Draws. DESIGN CHOICE (log entry 1): a draw is an opaque function of a counter in State and of the operands. -/

/-- The symbol an encoder emits on an unsupported control value: any 10-bit value (R99, U1). -/
opaque badkSym : Nat → Byte → RD → Sym

/-- The next RD bit after an unsupported control value: any bit (R99, U2). -/
opaque badkRd : Nat → Byte → RD → BitVec 1

/-- The decoder's byte output on an invalid codeword: any byte (R110, U3). -/
opaque invalidByte : Nat → Sym → RD → Byte

/-- The decoder's control-flag output on an invalid codeword: any bit (R110, U3). -/
opaque invalidFlag : Nat → Sym → RD → Bool

/-- The `rst` pin of an instance whose input the environment does not give in a cycle (R70). -/
opaque undrivenRst : Nat → Inst → Bool

/-- The `enc.k`, `enc.d` pins of an encoder whose input the environment does not give in a cycle (R70). -/
opaque undrivenEncWord : Nat → EncWord

/-- The 10-bit input of a decoder or comma detector whose input the environment does not give in a cycle (R70). -/
opaque undrivenSym : Nat → Inst → Sym

/-! Register values before the first reset: each from its whole type (R35, U4). The `Nat` tells one power-up from another. -/

opaque powerUpEncRd : Nat → BitVec 1
opaque powerUpEncQ : Nat → Sym
opaque powerUpDecRd : Nat → BitVec 1
opaque powerUpDecD : Nat → Byte
opaque powerUpDecK : Nat → Bool
opaque powerUpDecInv : Nat → Bool
opaque powerUpDecDerr : Nat → Bool
opaque powerUpCdPrev : Nat → Sym
opaque powerUpCdPrimed : Nat → Bool
opaque powerUpCdPos : Nat → Sym

end Sys2Proof.Config
end

