-- ==== Sys2Proof/Machine/Disparity.lean ====
section
/-! DEFINITION. Disparity arithmetic (40_symbol_table R76, R77) and the storage of RD (R21, R123). Disparities are
mathematical integers, never bit vectors (R8). -/

namespace Sys2Proof

/-- RD as the number -1 or +1 (R8, R123). -/
def RD.toInt : RD → Int
  | .neg => -1
  | .pos => 1

/-- The register bit that stores RD, shown on a disparity accessor: 0 is RD = -1, 1 is RD = +1 (R21, D3). -/
def RD.toBit : RD → BitVec 1
  | .neg => 0#1
  | .pos => 1#1

/-- RD read from its register bit: `(bit = 0) ? -1 : +1` (R96, R107). -/
def RD.ofBit (b : BitVec 1) : RD := if b = 0#1 then .neg else .pos

/-- The other running disparity. -/
def RD.flip : RD → RD
  | .neg => .pos
  | .pos => .neg

namespace Machine

/-- The number of 1 bits among the `n` low bits of a number. -/
def onesBelow : Nat → Nat → Nat
  | 0, _ => 0
  | n + 1, v => v % 2 + onesBelow n (v / 2)

/-- `popcount(v)`, the number of 1 bits of v (R8). -/
def popcount {n : Nat} (v : BitVec n) : Nat := onesBelow n v.toNat

/-- `disparity(p, w) = 2*popcount(p) - w` (R76). -/
def disparity {w : Nat} (p : BitVec w) : Int := 2 * (popcount p : Int) - (w : Int)

/-- `delta(s) = disparity(s, 10)` of a symbol (R76). -/
def delta (s : Sym) : Int := disparity s

/-- RD after something of disparity `n`: its sign, or RD itself when it is balanced (R77, R111). -/
def rdBySign (rd : RD) (n : Int) : RD := if 0 < n then .pos else if n < 0 then .neg else rd

/-- `rd_after(rd, p, w)`, the running disparity after a sub-block (R77). -/
def rdAfter {w : Nat} (rd : RD) (p : BitVec w) : RD := rdBySign rd (disparity p)

end Machine

end Sys2Proof
end

