-- ==== Sys2Proof/Machine/Operands.lean ====
section
/-! DEFINITION. Operand assembly (30_encoding R51 to R53, R61): the fields of the words that cross the ports. Nothing is
sign-extended, scaled or shifted. -/

namespace Sys2Proof.Machine

/-- `x = EDCBA = value[4:0]`, encoded by the 5b/6b sub-code (R11, R39, R51). -/
def codeX (v : Byte) : BitVec 5 := v.extractLsb' 0 5

/-- `y = HGF = value[7:5]`, encoded by the 3b/4b sub-code (R11, R39, R51). -/
def codeY (v : Byte) : BitVec 3 := v.extractLsb' 5 3

/-- The byte that `Dx.y` and `Kx.y` name, `32*y + x` (R11, R69). -/
def codeByte (x : BitVec 5) (y : BitVec 3) : Byte := y ++ x

/-- `k`, bit 8 of an `ENC_IN` word (R51). -/
def encWordK (w : EncWord) : Bool := w.getLsbD 8

/-- `d[7:0]` of an `ENC_IN` word (R51). -/
def encWordByte (w : EncWord) : Byte := w.extractLsb' 0 8

/-- `ENC_IN = {k, d[7:0]}` (R51). -/
def encWord (k : Bool) (d : Byte) : EncWord := BitVec.ofBool k ++ d

/-- `abcdei = sym[9:4]`, the 6-bit sub-block (R12, R40, R52). -/
def symSub6 (s : Sym) : BitVec 6 := s.extractLsb' 4 6

/-- `fghj = sym[3:0]`, the 4-bit sub-block (R12, R40, R52). -/
def symSub4 (s : Sym) : BitVec 4 := s.extractLsb' 0 4

/-- `DEC_OUT = {invalid, disp_err, k, d[7:0]}` (R53). -/
def decOut (invalid dispErr k : Bool) (d : Byte) : DecOut :=
  BitVec.ofBool invalid ++ BitVec.ofBool dispErr ++ BitVec.ofBool k ++ d

end Sys2Proof.Machine
end

