-- ==== Sys2Proof/Machine/SymbolTable.lean ====
section
/-! DEFINITION. The symbol table (30_encoding R55 to R60, 40_symbol_table R76 to R95): the code tables, `Enc`, the
valid-codeword set `V`, `Dec` and `expected`. Constant data and pure functions: nothing here reads or writes state
(R32, R95). The data tables are those of the spec's own files (its G1, G2, G5 to G7). -/

namespace Sys2Proof.Machine

/-! ## Tables. A row is (entry at RD-, entry at RD+). -/

/-- The entry of a row for the RD at the start of its sub-block (R78, R79). -/
def pick {w : Nat} (rd : RD) (row : BitVec w × BitVec w) : BitVec w :=
  match rd with
  | .neg => row.1
  | .pos => row.2

/-- Rows 0 to 7 of `T6` (R55). -/
def t6Rows0 : List (BitVec 6 × BitVec 6) :=
  [ (0b100111#6, 0b011000#6),  -- x = 0
    (0b011101#6, 0b100010#6),  -- x = 1
    (0b101101#6, 0b010010#6),  -- x = 2
    (0b110001#6, 0b110001#6),  -- x = 3
    (0b110101#6, 0b001010#6),  -- x = 4
    (0b101001#6, 0b101001#6),  -- x = 5
    (0b011001#6, 0b011001#6),  -- x = 6
    (0b111000#6, 0b000111#6) ]  -- x = 7

/-- Rows 8 to 15 of `T6` (R55). -/
def t6Rows1 : List (BitVec 6 × BitVec 6) :=
  [ (0b111001#6, 0b000110#6),  -- x = 8
    (0b100101#6, 0b100101#6),  -- x = 9
    (0b010101#6, 0b010101#6),  -- x = 10
    (0b110100#6, 0b110100#6),  -- x = 11
    (0b001101#6, 0b001101#6),  -- x = 12
    (0b101100#6, 0b101100#6),  -- x = 13
    (0b011100#6, 0b011100#6),  -- x = 14
    (0b010111#6, 0b101000#6) ]  -- x = 15

/-- Rows 16 to 23 of `T6` (R55). -/
def t6Rows2 : List (BitVec 6 × BitVec 6) :=
  [ (0b011011#6, 0b100100#6),  -- x = 16
    (0b100011#6, 0b100011#6),  -- x = 17
    (0b010011#6, 0b010011#6),  -- x = 18
    (0b110010#6, 0b110010#6),  -- x = 19
    (0b001011#6, 0b001011#6),  -- x = 20
    (0b101010#6, 0b101010#6),  -- x = 21
    (0b011010#6, 0b011010#6),  -- x = 22
    (0b111010#6, 0b000101#6) ]  -- x = 23

/-- Rows 24 to 31 of `T6` (R55). -/
def t6Rows3 : List (BitVec 6 × BitVec 6) :=
  [ (0b110011#6, 0b001100#6),  -- x = 24
    (0b100110#6, 0b100110#6),  -- x = 25
    (0b010110#6, 0b010110#6),  -- x = 26
    (0b110110#6, 0b001001#6),  -- x = 27
    (0b001110#6, 0b001110#6),  -- x = 28
    (0b101110#6, 0b010001#6),  -- x = 29
    (0b011110#6, 0b100001#6),  -- x = 30
    (0b101011#6, 0b010100#6) ]  -- x = 31

/-- The 5b/6b data sub-code `T6[x]` (R55). -/
def t6 (x : BitVec 5) : BitVec 6 × BitVec 6 :=
  (t6Rows0 ++ t6Rows1 ++ t6Rows2 ++ t6Rows3).getD x.toNat (0#6, 0#6)

/-- `K6`, the 5b/6b control sub-code of the codes K28.y (R56). -/
def k6 : BitVec 6 × BitVec 6 := (0b001111#6, 0b110000#6)

/-- Rows of `T4D`, y = 7 being D.x.P7, the primary form (R57). -/
def t4dRows : List (BitVec 4 × BitVec 4) :=
  [ (0b1011#4, 0b0100#4),  -- y = 0
    (0b1001#4, 0b1001#4),  -- y = 1
    (0b0101#4, 0b0101#4),  -- y = 2
    (0b1100#4, 0b0011#4),  -- y = 3
    (0b1101#4, 0b0010#4),  -- y = 4
    (0b1010#4, 0b1010#4),  -- y = 5
    (0b0110#4, 0b0110#4),  -- y = 6
    (0b1110#4, 0b0001#4) ]  -- y = 7

/-- The 3b/4b data sub-code `T4D[y]` (R57). -/
def t4d (y : BitVec 3) : BitVec 4 × BitVec 4 := t4dRows.getD y.toNat (0#4, 0#4)

/-- D.x.A7, the alternate form of y = 7 (R57). -/
def a7 : BitVec 4 × BitVec 4 := (0b0111#4, 0b1000#4)

/-- Rows of `T4K` (R58). -/
def t4kRows : List (BitVec 4 × BitVec 4) :=
  [ (0b1011#4, 0b0100#4),  -- y = 0
    (0b0110#4, 0b1001#4),  -- y = 1
    (0b1010#4, 0b0101#4),  -- y = 2
    (0b1100#4, 0b0011#4),  -- y = 3
    (0b1101#4, 0b0010#4),  -- y = 4
    (0b0101#4, 0b1010#4),  -- y = 5
    (0b1001#4, 0b0110#4),  -- y = 6
    (0b0111#4, 0b1000#4) ]  -- y = 7

/-- The control 3b/4b sub-code `T4K[y]` (R58). -/
def t4k (y : BitVec 3) : BitVec 4 × BitVec 4 := t4kRows.getD y.toNat (0#4, 0#4)

/-- `KSET`, the 12 legal control byte values: K28.0 to K28.7, K23.7, K27.7, K29.7, K30.7 (R58). -/
def kset : List Byte :=
  [0x1C#8, 0x3C#8, 0x5C#8, 0x7C#8, 0x9C#8, 0xBC#8, 0xDC#8, 0xFC#8, 0xF7#8, 0xFB#8, 0xFD#8, 0xFE#8]

/-- Membership in KSET: all 8 bits against the 12 values (R63). -/
def inKset (d : Byte) : Bool := kset.contains d

/-- The alternate 7 rule: at this RD after the 6-bit sub-block, `D.x.7` takes A7 (R59). -/
def usesA7 (x : BitVec 5) (rd6 : RD) : Bool :=
  match rd6 with
  | .neg => x = 17#5 || x = 18#5 || x = 20#5
  | .pos => x = 11#5 || x = 13#5 || x = 14#5

/-! ## Encoding -/

/-- `Enc6(x, k, rd)` (R78). -/
def enc6 (x : BitVec 5) (k : Bool) (rd : RD) : BitVec 6 :=
  if k = true ∧ x = 28#5 then pick rd k6 else pick rd (t6 x)

/-- `Enc4(x, y, k, rd6)` (R79). -/
def enc4 (x : BitVec 5) (y : BitVec 3) (k : Bool) (rd6 : RD) : BitVec 4 :=
  if k = true then pick rd6 (t4k y)
  else if y = 7#3 ∧ usesA7 x rd6 = true then pick rd6 a7
  else pick rd6 (t4d y)

/-- `Enc(value, k, rd) -> (sym, rd')` (R80). Meant for legal inputs only (R81). -/
def tableEnc (v : Byte) (k : Bool) (rd : RD) : Sym × RD :=
  let p6 := enc6 (codeX v) k rd
  let rd6 := rdAfter rd p6
  let p4 := enc4 (codeX v) (codeY v) k rd6
  (p6 ++ p4, rdAfter rd6 p4)

/-- A legal input: a data byte, or a control byte of KSET (R81). -/
def legal (v : Byte) (k : Bool) : Bool := !k || inKset v

/-- The 268 legal inputs: 256 data inputs and 12 control inputs (R81). -/
def legalInputs : List (Byte × Bool) :=
  (List.range 256).map (fun n => (BitVec.ofNat 8 n, false)) ++ kset.map (fun d => (d, true))

/-! ## Valid codewords and decoding -/

/-- `EncSet(rd)`, the symbols an encoder at this RD can emit (R86). -/
def encSet (rd : RD) : List Sym := legalInputs.map (fun p => (tableEnc p.1 p.2 rd).1)

/-- `expected(s, rd)`: s is a symbol an encoder at this RD could have sent (R91). -/
def expected (s : Sym) (rd : RD) : Bool := (encSet rd).contains s

/-- Membership in `V = EncSet(-1) ∪ EncSet(+1)` (R88). -/
def validSym (s : Sym) : Bool := expected s .neg || expected s .pos

/-- `s` is one of the two encodings of the input (R84, R90). -/
def isEncodingOf (s : Sym) (p : Byte × Bool) : Bool :=
  (tableEnc p.1 p.2 .neg).1 == s || (tableEnc p.1 p.2 .pos).1 == s

/-- `Dec(s)`: the legal input that s encodes, none for s outside V (R90). -/
def tableDec (s : Sym) : Option (Byte × Bool) := legalInputs.find? (isEncodingOf s)

end Sys2Proof.Machine
end

