-- ==== Sys2Proof/Syntax.lean ====
section
/-! DEFINITION. The operations of the core, one constructor per row of spec/opcode_table.json (30_encoding R62).
An operation stands in for an instruction: it is one kind of cycle of one instance. Operands are the input port values. -/

namespace Sys2Proof

/-- One operation of the core. -/
inductive Instr where
  /-- `ENC.D`: the encoder is given a data byte, `k = 0` (R98). -/
  | encD (d : Byte)
  /-- `ENC.K` of K28.0, byte 0x1C (R100). -/
  | encK28_0
  /-- `ENC.K` of K28.1, byte 0x3C (R100). -/
  | encK28_1
  /-- `ENC.K` of K28.2, byte 0x5C (R100). -/
  | encK28_2
  /-- `ENC.K` of K28.3, byte 0x7C (R100). -/
  | encK28_3
  /-- `ENC.K` of K28.4, byte 0x9C (R100). -/
  | encK28_4
  /-- `ENC.K` of K28.5, byte 0xBC (R100). -/
  | encK28_5
  /-- `ENC.K` of K28.6, byte 0xDC (R100). -/
  | encK28_6
  /-- `ENC.K` of K28.7, byte 0xFC (R100). -/
  | encK28_7
  /-- `ENC.K` of K23.7, byte 0xF7 (R100). -/
  | encK23_7
  /-- `ENC.K` of K27.7, byte 0xFB (R100). -/
  | encK27_7
  /-- `ENC.K` of K29.7, byte 0xFD (R100). -/
  | encK29_7
  /-- `ENC.K` of K30.7, byte 0xFE (R100). -/
  | encK30_7
  /-- `ENC.BADK`: the encoder is given `k = 1` with a byte outside KSET (R99). -/
  | encBadk (d : Byte)
  /-- `DEC`: the decoder is given a valid codeword (R109). -/
  | dec (s : Sym)
  /-- `DEC.INV`: the decoder is given an invalid codeword (R110). -/
  | decInv (s : Sym)
  /-- `CDET`: the comma detector is given a raw word (R139). -/
  | cdet (w : Sym)
  /-- `RST`: a cycle of one instance with `rst = 1` (R167). -/
  | rst (i : Inst)
  /-- `DISP`: a read of a disparity accessor port; not a cycle (R126). -/
  | disp (a : Accessor)
deriving DecidableEq, Repr

end Sys2Proof
end

