-- ==== Sys2Proof/WellFormed.lean ====
section
/-! DEFINITION. Which operations the input pins can select (30_encoding R62 to R64): the operand meets the row's condition. -/

namespace Sys2Proof

/-- The operand meets the condition of the operation's row: `ENC.BADK` has a byte outside KSET, `DEC` a symbol of V,
`DEC.INV` a symbol outside V; the other rows admit every operand (R62). -/
def Instr.wf (i : Instr) : Bool :=
  match i with
  | .encD _ => true
  | .encK28_0 => true
  | .encK28_1 => true
  | .encK28_2 => true
  | .encK28_3 => true
  | .encK28_4 => true
  | .encK28_5 => true
  | .encK28_6 => true
  | .encK28_7 => true
  | .encK23_7 => true
  | .encK27_7 => true
  | .encK29_7 => true
  | .encK30_7 => true
  | .encBadk d => !Machine.inKset d
  | .dec s => Machine.validSym s
  | .decInv s => !Machine.validSym s
  | .cdet _ => true
  | .rst _ => true
  | .disp _ => true

end Sys2Proof
end

