-- ==== Sys2Proof/Decode.lean ====
section
/-! DEFINITION. Which operation the pins of an instance select in a cycle (30_encoding R63, R64), the decoding of a raw
number presented on a port, total and rejecting by name, and the encoder beside it.

The core fetches no instructions (R20, R50). A word has its meaning only together with the port it is presented on:
the same 10 bits are a symbol for the decoder and a raw word for the comma detector. -/

namespace Sys2Proof

/-- Where an operation's word is presented. -/
inductive Port where
  /-- `enc.k`, `enc.d` with `rst` = 0, format ENC_IN (R51). -/
  | encIn
  /-- `dec.s` with `rst` = 0, format SYM (R52). -/
  | decS
  /-- `cd.w` with `rst` = 0, format SYM (R52). -/
  | cdW
  /-- The `rst` pin of an instance (R23, R26, R28). -/
  | rst (i : Inst)
  /-- The accessor port, read with no operand word (R126). -/
  | disp (a : Accessor)
deriving DecidableEq, Repr

/-- How many bits a port's word has (R68; 1 bit of `rst`; the accessor read has no word). -/
def Port.width (p : Port) : Nat :=
  match p with
  | .encIn => Config.encInWidth
  | .decS => Config.symWidth
  | .cdW => Config.symWidth
  | .rst _ => 1
  | .disp _ => 0

/-- Why a number presented on a port is no operation. -/
inductive Reject where
  /-- The number has bits above the port's width: there are no longer forms (R68). -/
  | tooWide (p : Port)
  /-- `rst` = 0 selects no reset (R62). -/
  | rstLow (i : Inst)
deriving DecidableEq, Repr

open Machine

/-- The encoder operation of a control request: all 8 bits against the 12 values of R58, otherwise `ENC.BADK` (R63). -/
def selectControl (d : Byte) : Instr :=
  if d = 0x1C#8 then .encK28_0
  else if d = 0x3C#8 then .encK28_1
  else if d = 0x5C#8 then .encK28_2
  else if d = 0x7C#8 then .encK28_3
  else if d = 0x9C#8 then .encK28_4
  else if d = 0xBC#8 then .encK28_5
  else if d = 0xDC#8 then .encK28_6
  else if d = 0xFC#8 then .encK28_7
  else if d = 0xF7#8 then .encK23_7
  else if d = 0xFB#8 then .encK27_7
  else if d = 0xFD#8 then .encK29_7
  else if d = 0xFE#8 then .encK30_7
  else .encBadk d

/-- Selecting the encoder operation of a cycle; `rst` = 1 overrides the input word, which is discarded (R63, R102). -/
def selectEnc (rst : Bool) (w : EncWord) : Instr :=
  if rst = true then .rst .enc
  else if encWordK w = false then .encD (encWordByte w)
  else selectControl (encWordByte w)

/-- Selecting the decoder operation of a cycle (R64). -/
def selectDec (rst : Bool) (s : Sym) : Instr :=
  if rst = true then .rst .dec
  else if validSym s = true then .dec s
  else .decInv s

/-- Selecting the comma-detector operation of a cycle (R62, R139). -/
def selectCd (rst : Bool) (w : Sym) : Instr :=
  if rst = true then .rst .cd else .cdet w

/-- The operation a number that fits its port selects. -/
def decodeFitting (p : Port) (w : Nat) : Except Reject Instr :=
  match p with
  | .encIn => .ok (selectEnc false (BitVec.ofNat 9 w))
  | .decS => .ok (selectDec false (BitVec.ofNat 10 w))
  | .cdW => .ok (selectCd false (BitVec.ofNat 10 w))
  | .rst i => if w = 1 then .ok (.rst i) else .error (.rstLow i)
  | .disp a => .ok (.disp a)

/-- The operation a number presented on a port selects; a number wider than the port is rejected (R68). -/
def decode (p : Port) (w : Nat) : Except Reject Instr :=
  if w < 2 ^ p.width then decodeFitting p w else .error (.tooWide p)

/-- The port and the word that present a well-formed operation, from R51, R52, R58 and R62. -/
def encode (i : Instr) : Port × Nat :=
  match i with
  | .encD d => (.encIn, (encWord false d).toNat)
  | .encK28_0 => (.encIn, 0x11C)
  | .encK28_1 => (.encIn, 0x13C)
  | .encK28_2 => (.encIn, 0x15C)
  | .encK28_3 => (.encIn, 0x17C)
  | .encK28_4 => (.encIn, 0x19C)
  | .encK28_5 => (.encIn, 0x1BC)
  | .encK28_6 => (.encIn, 0x1DC)
  | .encK28_7 => (.encIn, 0x1FC)
  | .encK23_7 => (.encIn, 0x1F7)
  | .encK27_7 => (.encIn, 0x1FB)
  | .encK29_7 => (.encIn, 0x1FD)
  | .encK30_7 => (.encIn, 0x1FE)
  | .encBadk d => (.encIn, (encWord true d).toNat)
  | .dec s => (.decS, s.toNat)
  | .decInv s => (.decS, s.toNat)
  | .cdet w => (.cdW, w.toNat)
  | .rst i => (.rst i, 1)
  | .disp a => (.disp a, 0)

/-! ## The host's numbering of table words

DESIGN CHOICE (log entry 2): the table's words of different ports overlap, so a word alone does not name its port. -/

/-- The port a table word is presented on, from its length in bits: no bits is the accessor read, up to one byte the
`rst` pin (a 0 there asks for no reset and is read as the accessor), 9 bits the encoder input, 10 bits the decoder
input; in two whole bytes, a word with a bit above bit 8 can only be a SYM word, any other is an ENC_IN word. -/
def tablePort (nbits w : Nat) : Option Port :=
  if nbits = 0 then some (.disp .enc)
  else if nbits ≤ 8 then (if w = 0 then some (.disp .enc) else some (.rst .enc))
  else if nbits = 9 then some .encIn
  else if nbits = 10 then some .decS
  else if nbits ≤ 16 then (if w < 2 ^ Config.encInWidth then some .encIn else some .decS)
  else none

/-- The instruction the decoder reads from a word numbered as spec/opcode_table.json numbers it. -/
def decodeTableWord (nbits w : Nat) : Option Instr :=
  match tablePort nbits w with
  | none => none
  | some p => (decode p w).toOption

end Sys2Proof
end

