-- ==== Sys2Proof/Machine/State.lean ====
section
/-! DEFINITION. The state of the machine: every register of 10_state, the ghost bit `enc.misuse`, and the model's own
fields (the environment's pending inputs, the cycle index, the draw counters, the last accessor reading). Plain data. -/

namespace Sys2Proof.Machine

/-! ## What the environment presents -/

/-- What drives a 10-bit input in a cycle. -/
inductive SymDrive where
  /-- A literal word (R70, `DEC 0b…`, `CDET 0b…`). -/
  | word (w : Sym)
  /-- `enc.sym` of this same cycle: the loopback wiring `DEC <- ENC` (R48, R70). -/
  | encOut
deriving DecidableEq, Repr

/-- The encoder's pins in a cycle. -/
inductive EncPins where
  /-- `rst` and `ENC_IN = {enc.k, enc.d}` (R23, R51). -/
  | driven (rst : Bool) (w : EncWord)
  /-- An input the environment does not define: a draw (R70). -/
  | undriven
deriving DecidableEq, Repr

/-- The pins of the decoder or of the comma detector in a cycle. -/
inductive LinePins where
  /-- `rst` and the 10-bit input `dec.s` or `cd.w` (R26, R28). -/
  | driven (rst : Bool) (d : SymDrive)
  /-- An input the environment does not define: a draw (R70). -/
  | undriven
deriving DecidableEq, Repr

/-- One time step of the clocks: the instances whose clock has a rising edge in it, each with its pins. Instances on one
clock step together (R183); an instance without an edge keeps its registers (D1; DESIGN CHOICE, log entry 3). -/
structure Cycle where
  enc : Option EncPins
  dec : Option LinePins
  cd : Option LinePins
deriving DecidableEq, Repr

/-- What the environment does next. -/
inductive Event where
  /-- Rising clock edges, one cycle (R9, R183). -/
  | cycle (c : Cycle)
  /-- A read of a disparity accessor, which is not a cycle (R62, R126). -/
  | read (a : Accessor)
deriving DecidableEq, Repr

/-! ## Registers -/

/-- The encoder's registers (R21, R22), its ghost bit (R33) and its draw counter (model's own, log entry 1). -/
structure EncState where
  /-- `enc.rd` (R21). -/
  rd : RD
  /-- `enc.q` (R22). -/
  q : Sym
  /-- `enc.misuse`, model-only ghost bit (R33). -/
  misuse : Bool
  /-- How many draws this encoder has made. -/
  draws : Nat
deriving DecidableEq, Repr

/-- The decoder's registers (R24, R25) and its draw counter (model's own, log entry 1). -/
structure DecState where
  /-- `dec.rd` (R24). -/
  rd : RD
  /-- `dec.d_q` (R25). -/
  d : Byte
  /-- `dec.k_q` (R25). -/
  k : Bool
  /-- `dec.inv_q` (R25). -/
  inv : Bool
  /-- `dec.derr_q` (R25). -/
  derr : Bool
  /-- How many draws this decoder has made. -/
  draws : Nat
deriving DecidableEq, Repr

/-- The comma detector's registers (R27). -/
structure CdState where
  /-- `cd.prev`, the raw word of the previous cycle. -/
  prev : Sym
  /-- `cd.primed`, 1 once `cd.prev` holds a received word. -/
  primed : Bool
  /-- `cd.pos_q`, the comma-position flags. -/
  pos : BitVec 10
deriving DecidableEq, Repr

/-- The machine: one encoder, one decoder, one comma detector (one lane, R5), and the environment's side. -/
structure State where
  enc : EncState
  dec : DecState
  cd : CdState
  /-- What the environment presents next, earliest first (model's own, log entry 4). -/
  pending : List Event
  /-- The cycle index, the model's only time (R183). -/
  cycle : Nat
  /-- What the last accessor read showed its reader (model's own, log entry 5). -/
  reading : Option (Accessor × BitVec 1)
deriving DecidableEq, Repr

/-! ## Reset values -/

/-- The encoder after reset (R21, R22, R34); `enc.misuse` is 0 when the model is created (R33). -/
def EncState.reset : EncState := ⟨Config.rdReset, 0#10, false, 0⟩

/-- The decoder after reset (R24, R25, R34). -/
def DecState.reset : DecState := ⟨Config.rdReset, 0#8, false, false, false, 0⟩

/-- The comma detector after reset (R27, R34). -/
def CdState.reset : CdState := ⟨0#10, false, 0#10⟩

/-- The machine right after a reset of all three instances, nothing presented yet (R34). -/
def State.reset : State := ⟨.reset, .reset, .reset, [], 0, none⟩

/-- The machine at power-up, before the first reset: every register a draw from its whole type, `enc.misuse` 0
(R33, R35, R166). The argument tells one power-up from another. DESIGN CHOICE (log entry 14): R35 keeps the registers drawn
until the first cycle with `rst` = 1 and R184 does not say what happens in a cycle before it; the model draws them once,
here, and a cycle before the first reset is an ordinary step from these draws. -/
def State.powerUp (n : Nat) : State :=
  { enc := ⟨.ofBit (Config.powerUpEncRd n), Config.powerUpEncQ n, false, 0⟩
    dec := ⟨.ofBit (Config.powerUpDecRd n), Config.powerUpDecD n, Config.powerUpDecK n, Config.powerUpDecInv n,
      Config.powerUpDecDerr n, 0⟩
    cd := ⟨Config.powerUpCdPrev n, Config.powerUpCdPrimed n, Config.powerUpCdPos n⟩
    pending := []
    cycle := 0
    reading := none }

/-! ## How a step can end -/

/-- The faults of the core: none. No behaviour of the core is a fault or a hang; every cycle is a total function
(R150, R165; 93_implementation_defined Part 1). -/
inductive Fault where
deriving DecidableEq, Repr

/-- Refusals of the model. -/
inductive Refusal where
  /-- An operation of the opcode table without a meaning yet. Raised only by an arm of `exec`; safe. No arm raises it:
  the hardware refuses no input (R154, R165). -/
  | notModelled (mnemonic : String)
deriving DecidableEq, Repr

/-- What an operation answers. -/
abbrev Result := Host.Outcome State Fault Refusal

end Sys2Proof.Machine
end

