-- ==== Sys2Proof/Machine/Fetch.lean ====
section
/-! DEFINITION. What the environment presents in the next step, and which operations its pins select (R9, R20, R70).
Every pin, the loopback wire `enc.sym` among them, shows its value from before the edge (R9, R48). -/

namespace Sys2Proof.Machine

/-- The word on a 10-bit input during the cycle (R48, R70). -/
def SymDrive.value (d : SymDrive) (s : State) : Sym :=
  match d with
  | .word w => w
  | .encOut => s.enc.q

/-- The encoder operation its pins select; undriven pins are draws (R63, R70). -/
def EncPins.op (p : EncPins) (s : State) : Instr :=
  match p with
  | .driven r w => selectEnc r w
  | .undriven => selectEnc (Config.undrivenRst s.cycle .enc) (Config.undrivenEncWord s.cycle)

/-- The decoder operation its pins select; undriven pins are draws (R64, R70). -/
def LinePins.decOp (p : LinePins) (s : State) : Instr :=
  match p with
  | .driven r d => selectDec r (d.value s)
  | .undriven => selectDec (Config.undrivenRst s.cycle .dec) (Config.undrivenSym s.cycle .dec)

/-- The comma-detector operation its pins select; undriven pins are draws (R62, R70). -/
def LinePins.cdOp (p : LinePins) (s : State) : Instr :=
  match p with
  | .driven r d => selectCd r (d.value s)
  | .undriven => selectCd (Config.undrivenRst s.cycle .cd) (Config.undrivenSym s.cycle .cd)

/-- The operations of a cycle, one for each instance that has an edge in it. -/
def Cycle.ops (c : Cycle) (s : State) : List Instr :=
  (c.enc.map (fun p => p.op s)).toList ++ (c.dec.map (fun p => p.decOp s)).toList
    ++ (c.cd.map (fun p => p.cdOp s)).toList

/-- A cycle of which the environment defines nothing: all three instances step on undriven pins. The clock never
stops (D1, R164, R184; log entry 4). -/
def Cycle.undriven : Cycle := ⟨some .undriven, some .undriven, some .undriven⟩

/-- The operations of the next step, and the state with the event taken off and the cycle index advanced. -/
def fetch (s : State) : List Instr × State :=
  match s.pending with
  | [] => (Cycle.undriven.ops s, { s with cycle := s.cycle + 1 })
  | .cycle c :: rest => (c.ops s, { s with pending := rest, cycle := s.cycle + 1 })
  | .read a :: rest => ([.disp a], { s with pending := rest })

/-- The event that presents a word on one port and clocks that port's instance only. -/
def portEvent (p : Port) (w : Nat) : Event :=
  match p with
  | .encIn => .cycle ⟨some (.driven false (BitVec.ofNat 9 w)), none, none⟩
  | .decS => .cycle ⟨none, some (.driven false (.word (BitVec.ofNat 10 w))), none⟩
  | .cdW => .cycle ⟨none, none, some (.driven false (.word (BitVec.ofNat 10 w)))⟩
  | .rst .enc => .cycle ⟨some (.driven true 0#9), none, none⟩
  | .rst .dec => .cycle ⟨none, some (.driven true (.word 0#10)), none⟩
  | .rst .cd => .cycle ⟨none, none, some (.driven true (.word 0#10))⟩
  | .disp a => .read a

/-- The event presented first. -/
def State.present (s : State) (e : Event) : State := { s with pending := e :: s.pending }

/-- The table word presented first, where it has a port. -/
def State.presentTableWord (s : State) (nbits w : Nat) : State :=
  match tablePort nbits w with
  | some p => s.present (portEvent p w)
  | none => s

end Sys2Proof.Machine
end

