-- ==== Sys2Proof/Machine/Comma.lean ====
section
/-! DEFINITION. Windows and comma patterns (44_comma_detector R134, R135, R138): pure functions of raw words. -/

namespace Sys2Proof.Machine

/-- The n-bit vector whose bit i is `f i`. -/
def bitsOf (f : Nat → Bool) : (n : Nat) → BitVec n
  | 0 => 0#0
  | n + 1 => BitVec.cons (f n) (bitsOf f n)

/-- `W_k(p, c) = ({p, c} >> (10 - k))[9:0]`: the 10 line bits that begin k bits after the first bit of p (R134). -/
def window (p c : Sym) (k : Nat) : Sym := ((p ++ c) >>> (10 - k)).setWidth 10

/-- `COMMA6`: K28.1, K28.5, K28.7, each at RD- and at RD+ (R135). -/
def comma6 : List Sym := [0x0F9#10, 0x306#10, 0x0FA#10, 0x305#10, 0x0F8#10, 0x307#10]

/-- Membership in `COMMA6`, all ten bits compared (R135, R144). -/
def isComma (w : Sym) : Bool := comma6.contains w

/-- `match(p, c)[k] = (W_k(p, c) in COMMA6)` for k = 0 .. 9 (R138). -/
def commaMatch (p c : Sym) : BitVec 10 := bitsOf (fun k => isComma (window p c k)) 10

end Sys2Proof.Machine
end

