-- ==== Sys2Proof/Machine/Flags.lean ====
section
/-! DEFINITION. The flags and RD values a cycle computes (42_decoder R111, R113; 44_comma_detector R139). No flag is
sticky: each is computed anew in every cycle (R29, R115). -/

namespace Sys2Proof.Machine

/-- The decoder's next RD: the sign of the symbol's delta, or RD itself when the symbol is balanced, for valid and
invalid symbols alike (R111, R125). -/
def decNextRd (rd : RD) (s : Sym) : RD := rdBySign rd (delta s)

/-- `dec.derr_q` of a valid codeword: an encoder at this RD could not have emitted it (R113). -/
def dispViolation (s : Sym) (rd : RD) : Bool := !expected s rd

/-- The comma flags of the windows of `cd.prev` and the new word; none before a word was received (R137, R139). -/
def commaFlags (c : CdState) (w : Sym) : BitVec 10 := if c.primed = true then commaMatch c.prev w else 0#10

end Sys2Proof.Machine
end

