-- ==== Sys2Proof/Machine/Ops.lean ====
section
/-! DEFINITION. The shared operations on registers. All assignments of one operation take effect together and read the
state before the edge (00_scope R9, 20_memory R45).

The core has no memory (R37), so there is no memory operation here; and it has no trap, interrupt or return from one
(R157, R158), so there is no exception entry or return. -/

namespace Sys2Proof.Machine

/-- `enc.q <- q; enc.rd <- rd` (R97). -/
def State.latchEnc (s : State) (q : Sym) (rd : RD) : State :=
  { s with enc := { s.enc with q := q, rd := rd } }

/-- `enc.q <- draw; enc.rd <- draw; enc.misuse <- 1` (R97, R99). -/
def State.drawEnc (s : State) (d : Byte) : State :=
  { s with enc :=
    { rd := .ofBit (Config.badkRd s.enc.draws d s.enc.rd)
      q := Config.badkSym s.enc.draws d s.enc.rd
      misuse := true
      draws := s.enc.draws + 1 } }

/-- The decoder registers of a valid codeword that decodes to (v, k) (R108, R109). -/
def State.latchDec (s : State) (sy : Sym) (v : Byte) (k : Bool) : State :=
  { s with dec :=
    { s.dec with
      rd := decNextRd s.dec.rd sy
      d := v
      k := k
      inv := false
      derr := dispViolation sy s.dec.rd } }

/-- The decoder registers of an invalid codeword: the value and the flag are draws, `invalid` is 1 and `disp_err` is 0
(R108, R110, R114). -/
def State.drawDec (s : State) (sy : Sym) : State :=
  { s with dec :=
    { rd := decNextRd s.dec.rd sy
      d := Config.invalidByte s.dec.draws sy s.dec.rd
      k := Config.invalidFlag s.dec.draws sy s.dec.rd
      inv := true
      derr := false
      draws := s.dec.draws + 1 } }

/-- `cd.pos_q <- flags; cd.prev <- w; cd.primed <- 1` (R139). -/
def State.latchCd (s : State) (w : Sym) : State :=
  { s with cd := { prev := w, primed := true, pos := commaFlags s.cd w } }

/-- The encoder registers take their reset values; `enc.misuse` is not cleared (R33, R167). -/
def State.resetEnc (s : State) : State :=
  { s with enc := { s.enc with rd := Config.rdReset, q := 0#10 } }

/-- The decoder registers take their reset values (R167). -/
def State.resetDec (s : State) : State :=
  { s with dec := { s.dec with rd := Config.rdReset, d := 0#8, k := false, inv := false, derr := false } }

/-- The comma-detector registers take their reset values (R167). -/
def State.resetCd (s : State) : State := { s with cd := { prev := 0#10, primed := false, pos := 0#10 } }

/-- `enc.disp = enc.rd` and `dec.disp = dec.rd`, as the bit the accessor port shows (R126). -/
def State.dispBit (s : State) (a : Accessor) : BitVec 1 :=
  match a with
  | .enc => s.enc.rd.toBit
  | .dec => s.dec.rd.toBit

/-- The reader takes what the accessor port shows; no register of the core changes (R46, R126). -/
def State.readDisp (s : State) (a : Accessor) : State := { s with reading := some (a, s.dispBit a) }

end Sys2Proof.Machine
end

