-- ==== Sys2Proof/Machine/CommaDetector.lean ====
section
/-! DEFINITION. The comma detector's operation (44_comma_detector R137 to R140). -/

namespace Sys2Proof.Machine

/-- `CDET` (R139). -/
def execCdet (w : Sym) (s : State) : Result := .next (s.latchCd w)

end Sys2Proof.Machine
end

