-- ==== Sys2Proof/Machine/Decoder.lean ====
section
/-! DEFINITION. The decoder's operations (42_decoder R107 to R122). -/

namespace Sys2Proof.Machine

/-- A non-reset decoder cycle: `Dec` is defined exactly on V, and outside V the outputs are draws (R90, R108). -/
def decoderCycle (sy : Sym) (s : State) : Result :=
  match tableDec sy with
  | some p => .next (s.latchDec sy p.1 p.2)
  | none => .next (s.drawDec sy)

/-- `DEC` (R109). -/
def execDec (sy : Sym) (s : State) : Result := decoderCycle sy s

/-- `DEC.INV` (R110). -/
def execDecInv (sy : Sym) (s : State) : Result := decoderCycle sy s

end Sys2Proof.Machine
end

