-- ==== Sys2Proof/Machine/Encoder.lean ====
section
/-! DEFINITION. The encoder's operations (41_encoder R96 to R106). -/

namespace Sys2Proof.Machine

/-- `(sym, rd') = Enc(value, k, RD); enc.q <- sym; enc.rd <- bit(rd')` (R97, R98, R100). -/
def encodeLegal (v : Byte) (k : Bool) (s : State) : Result :=
  .next (s.latchEnc (tableEnc v k s.enc.rd).1 (tableEnc v k s.enc.rd).2)

/-- A non-reset encoder cycle (R97). -/
def encoderCycle (v : Byte) (k : Bool) (s : State) : Result :=
  if legal v k = true then encodeLegal v k s else .next (s.drawEnc v)

/-- `ENC.D` (R98). -/
def execEncD (d : Byte) (s : State) : Result := encodeLegal d false s

/-- `ENC.K` K28.0 (R100). -/
def execEncK28_0 (s : State) : Result := encodeLegal 0x1C#8 true s

/-- `ENC.K` K28.1 (R100). -/
def execEncK28_1 (s : State) : Result := encodeLegal 0x3C#8 true s

/-- `ENC.K` K28.2 (R100). -/
def execEncK28_2 (s : State) : Result := encodeLegal 0x5C#8 true s

/-- `ENC.K` K28.3 (R100). -/
def execEncK28_3 (s : State) : Result := encodeLegal 0x7C#8 true s

/-- `ENC.K` K28.4 (R100). -/
def execEncK28_4 (s : State) : Result := encodeLegal 0x9C#8 true s

/-- `ENC.K` K28.5 (R100). -/
def execEncK28_5 (s : State) : Result := encodeLegal 0xBC#8 true s

/-- `ENC.K` K28.6 (R100). -/
def execEncK28_6 (s : State) : Result := encodeLegal 0xDC#8 true s

/-- `ENC.K` K28.7 (R100). -/
def execEncK28_7 (s : State) : Result := encodeLegal 0xFC#8 true s

/-- `ENC.K` K23.7 (R100). -/
def execEncK23_7 (s : State) : Result := encodeLegal 0xF7#8 true s

/-- `ENC.K` K27.7 (R100). -/
def execEncK27_7 (s : State) : Result := encodeLegal 0xFB#8 true s

/-- `ENC.K` K29.7 (R100). -/
def execEncK29_7 (s : State) : Result := encodeLegal 0xFD#8 true s

/-- `ENC.K` K30.7 (R100). -/
def execEncK30_7 (s : State) : Result := encodeLegal 0xFE#8 true s

/-- `ENC.BADK` (R99): the encoder cycle with `k` = 1, whose last branch is this operation's. -/
def execEncBadk (d : Byte) (s : State) : Result := encoderCycle d true s

end Sys2Proof.Machine
end

