-- ==== Sys2Proof/Machine/System.lean ====
section
/-! DEFINITION. Reset (70_reset_and_hazards R167) and the read-only disparity accessor (43_disparity_state_machine R126). -/

namespace Sys2Proof.Machine

/-- `RST` of one instance: every register of it takes its reset value (R167). -/
def execRst (i : Inst) (s : State) : Result :=
  match i with
  | .enc => .next s.resetEnc
  | .dec => .next s.resetDec
  | .cd => .next s.resetCd

/-- `DISP` (R126). -/
def execDisp (a : Accessor) (s : State) : Result := .next (s.readDisp a)

end Sys2Proof.Machine
end

