-- ==== Sys2Proof/Machine/Dispatch.lean ====
section
/-! DEFINITION. One arm per operation of the opcode table (R62). -/

namespace Sys2Proof.Machine

def exec (i : Instr) (s : State) : Host.Outcome State Fault Refusal :=
  match i with
  | .encD d => Sys2Proof.Machine.execEncD d s
  | .encK28_0 => Sys2Proof.Machine.execEncK28_0 s
  | .encK28_1 => Sys2Proof.Machine.execEncK28_1 s
  | .encK28_2 => Sys2Proof.Machine.execEncK28_2 s
  | .encK28_3 => Sys2Proof.Machine.execEncK28_3 s
  | .encK28_4 => Sys2Proof.Machine.execEncK28_4 s
  | .encK28_5 => Sys2Proof.Machine.execEncK28_5 s
  | .encK28_6 => Sys2Proof.Machine.execEncK28_6 s
  | .encK28_7 => Sys2Proof.Machine.execEncK28_7 s
  | .encK23_7 => Sys2Proof.Machine.execEncK23_7 s
  | .encK27_7 => Sys2Proof.Machine.execEncK27_7 s
  | .encK29_7 => Sys2Proof.Machine.execEncK29_7 s
  | .encK30_7 => Sys2Proof.Machine.execEncK30_7 s
  | .encBadk d => Sys2Proof.Machine.execEncBadk d s
  | .dec sy => Sys2Proof.Machine.execDec sy s
  | .decInv sy => Sys2Proof.Machine.execDecInv sy s
  | .cdet w => Sys2Proof.Machine.execCdet w s
  | .rst n => Sys2Proof.Machine.execRst n s
  | .disp a => Sys2Proof.Machine.execDisp a s

end Sys2Proof.Machine
end

