-- ==== Sys2Proof/Machine/Lockstep.lean ====
section
/-! DEFINITION. The operations of one cycle, run on one state. They belong to different instances, which share no state
(R18), so the order in which they are listed is not observable and each reads its registers from before the edge (R9). -/

namespace Sys2Proof.Machine

/-- Go on from an outcome: a fault or a refusal ends the run. -/
def andThen (r : Result) (f : State → Result) : Result :=
  match r with
  | .next s => f s
  | .fault e => .fault e
  | .refused e => .refused e

/-- Run operations in turn. -/
def execAll : List Instr → State → Result
  | [], s => .next s
  | i :: is, s => andThen (exec i s) (execAll is)

end Sys2Proof.Machine
end

