-- ==== Sys2Proof/Machine/Step.lean ====
section
/-! DEFINITION. One step: the next event the environment presents, run by the instances it concerns (R9, R183). -/

namespace Sys2Proof.Machine

/-- One step of the machine. It is the same before the first reset as after it (DESIGN CHOICE, log entry 14). -/
def step (s : State) : Host.Outcome State Fault Refusal := execAll (fetch s).1 (fetch s).2

/-- The state with a table word presented on its port in the very next step (log entry 2). -/
def State.withFetchWord (s : State) (nbits w : Nat) : State := s.presentTableWord nbits w

end Sys2Proof.Machine
end

