-- ==== Sys2Proof/Machine/Conditions.lean ====
section
/-! DEFINITION. The error conditions E1 to E3 (60_exceptions R150 to R155). They are names only: no register holds them,
and none stops an instance, saves state or transfers control (R150). -/

namespace Sys2Proof.Machine

/-- The three conditions; there are no others (R154). -/
inductive Condition where
  /-- E1 `UNSUPPORTED_CONTROL` (R151). -/
  | unsupportedControl
  /-- E2 `INVALID_CODEWORD` (R152). -/
  | invalidCodeword
  /-- E3 `DISPARITY_ERROR` (R153). -/
  | disparityError
deriving DecidableEq, Repr

/-- The condition a decoder cycle raises; E2 takes the place of E3 (R152, R153, R155). -/
def decoderCondition (sy : Sym) (rd : RD) : Option Condition :=
  if validSym sy = false then some .invalidCodeword
  else if expected sy rd = false then some .disparityError
  else none

/-- The condition an operation raises in a state (R151 to R154). -/
def condition (i : Instr) (s : State) : Option Condition :=
  match i with
  | .encD _ => none
  | .encK28_0 => none
  | .encK28_1 => none
  | .encK28_2 => none
  | .encK28_3 => none
  | .encK28_4 => none
  | .encK28_5 => none
  | .encK28_6 => none
  | .encK28_7 => none
  | .encK23_7 => none
  | .encK27_7 => none
  | .encK29_7 => none
  | .encK30_7 => none
  | .encBadk d => if inKset d = false then some .unsupportedControl else none
  | .dec sy => decoderCondition sy s.dec.rd
  | .decInv sy => decoderCondition sy s.dec.rd
  | .cdet _ => none
  | .rst _ => none
  | .disp _ => none

end Sys2Proof.Machine
end

