-- ==== Sys2Proof/Machine/Ports.lean ====
section
/-! DEFINITION. The output ports, which show register values (10_state R23, R26, R28; 00_scope R9). -/

namespace Sys2Proof.Machine

/-- The values on all output ports during a cycle. -/
structure Ports where
  /-- `enc.sym`. -/
  encSym : Sym
  /-- `enc.disp`. -/
  encDisp : BitVec 1
  /-- `dec.d`. -/
  decD : Byte
  /-- `dec.k`. -/
  decK : Bool
  /-- `dec.invalid`. -/
  decInvalid : Bool
  /-- `dec.disp_err`. -/
  decDispErr : Bool
  /-- `dec.disp`. -/
  decDisp : BitVec 1
  /-- `cd.comma_pos`, format CDET_OUT (R54). -/
  cdCommaPos : BitVec 10
  /-- `cd.comma`. -/
  cdComma : Bool
deriving DecidableEq, Repr

/-- `cd.comma`, the OR of `cd.pos_q[9:0]` (R28). -/
def anyComma (pos : BitVec 10) : Bool := (List.range 10).any (fun k => pos.getLsbD k)

/-- What the output ports show in a state. Reading them has no side effect (R46). -/
def State.ports (s : State) : Ports :=
  { encSym := s.enc.q
    encDisp := s.dispBit .enc
    decD := s.dec.d
    decK := s.dec.k
    decInvalid := s.dec.inv
    decDispErr := s.dec.derr
    decDisp := s.dispBit .dec
    cdCommaPos := s.cd.pos
    cdComma := anyComma s.cd.pos }

/-- The decoder's outputs as one `DEC_OUT` word (R53). -/
def State.decOutWord (s : State) : DecOut := decOut s.dec.inv s.dec.derr s.dec.k s.dec.d

end Sys2Proof.Machine
end

