-- ==== Sys2Proof/Machine/Observe.lean ====
section
/-! DEFINITION. A run, a finite prefix of cycles, and its observation: the output-port values in each cycle
(70_reset_and_hazards R184). A step that is an accessor read is no cycle (R62; log entry 5): it takes place during the
cycle that follows it, and the observation has no entry for it. -/

namespace Sys2Proof.Machine

/-- The state after n steps, accessor reads among them. -/
def stepN : Nat → State → Result
  | 0, s => .next s
  | n + 1, s => andThen (step s) (stepN n)

/-- How many accessor reads the environment presents before its next cycle. -/
def leadingReads : List Event → Nat
  | [] => 0
  | .cycle _ :: _ => 0
  | .read _ :: es => leadingReads es + 1

/-- One cycle, with the accessor reads presented before it (R183, R184). -/
def runCycle (s : State) : Result := stepN (leadingReads s.pending + 1) s

/-- The state after n cycles: a run (R184). -/
def runCycles : Nat → State → Result
  | 0, s => .next s
  | n + 1, s => andThen (runCycle s) (runCycles n)

/-- The observation of a run of n cycles: what the ports show in each, from before the edge that ends it (R9, R184). -/
def observe : Nat → State → List Ports
  | 0, _ => []
  | n + 1, s =>
    s.ports ::
      match runCycle s with
      | .next t => observe n t
      | .fault _ => []
      | .refused _ => []

end Sys2Proof.Machine
end

