-- ==== Sys2Proof/Machine/SymbolRom.lean ====
section
/-! DEFINITION. The code as one flat lookup of 2x256 data entries and 2x12 control entries, the other realisation the
spec allows (40_symbol_table R95, 10_state R32, D8). The entries are those the spec prints: the complete data table of
95_test_vectors L2.1 and the control table of 30_encoding R60. The machine does not use it; a claim compares the two. -/

namespace Sys2Proof.Machine

/-- Dx.0: (RD- symbol, RD+ symbol), x = 0 .. 31. -/
def romD0 : List (Sym × Sym) :=
  [ (0x274#10, 0x18B#10), (0x1D4#10, 0x22B#10), (0x2D4#10, 0x12B#10), (0x31B#10, 0x314#10),
    (0x354#10, 0x0AB#10), (0x29B#10, 0x294#10), (0x19B#10, 0x194#10), (0x38B#10, 0x074#10),
    (0x394#10, 0x06B#10), (0x25B#10, 0x254#10), (0x15B#10, 0x154#10), (0x34B#10, 0x344#10),
    (0x0DB#10, 0x0D4#10), (0x2CB#10, 0x2C4#10), (0x1CB#10, 0x1C4#10), (0x174#10, 0x28B#10),
    (0x1B4#10, 0x24B#10), (0x23B#10, 0x234#10), (0x13B#10, 0x134#10), (0x32B#10, 0x324#10),
    (0x0BB#10, 0x0B4#10), (0x2AB#10, 0x2A4#10), (0x1AB#10, 0x1A4#10), (0x3A4#10, 0x05B#10),
    (0x334#10, 0x0CB#10), (0x26B#10, 0x264#10), (0x16B#10, 0x164#10), (0x364#10, 0x09B#10),
    (0x0EB#10, 0x0E4#10), (0x2E4#10, 0x11B#10), (0x1E4#10, 0x21B#10), (0x2B4#10, 0x14B#10) ]

/-- Dx.1: (RD- symbol, RD+ symbol), x = 0 .. 31. -/
def romD1 : List (Sym × Sym) :=
  [ (0x279#10, 0x189#10), (0x1D9#10, 0x229#10), (0x2D9#10, 0x129#10), (0x319#10, 0x319#10),
    (0x359#10, 0x0A9#10), (0x299#10, 0x299#10), (0x199#10, 0x199#10), (0x389#10, 0x079#10),
    (0x399#10, 0x069#10), (0x259#10, 0x259#10), (0x159#10, 0x159#10), (0x349#10, 0x349#10),
    (0x0D9#10, 0x0D9#10), (0x2C9#10, 0x2C9#10), (0x1C9#10, 0x1C9#10), (0x179#10, 0x289#10),
    (0x1B9#10, 0x249#10), (0x239#10, 0x239#10), (0x139#10, 0x139#10), (0x329#10, 0x329#10),
    (0x0B9#10, 0x0B9#10), (0x2A9#10, 0x2A9#10), (0x1A9#10, 0x1A9#10), (0x3A9#10, 0x059#10),
    (0x339#10, 0x0C9#10), (0x269#10, 0x269#10), (0x169#10, 0x169#10), (0x369#10, 0x099#10),
    (0x0E9#10, 0x0E9#10), (0x2E9#10, 0x119#10), (0x1E9#10, 0x219#10), (0x2B9#10, 0x149#10) ]

/-- Dx.2: (RD- symbol, RD+ symbol), x = 0 .. 31. -/
def romD2 : List (Sym × Sym) :=
  [ (0x275#10, 0x185#10), (0x1D5#10, 0x225#10), (0x2D5#10, 0x125#10), (0x315#10, 0x315#10),
    (0x355#10, 0x0A5#10), (0x295#10, 0x295#10), (0x195#10, 0x195#10), (0x385#10, 0x075#10),
    (0x395#10, 0x065#10), (0x255#10, 0x255#10), (0x155#10, 0x155#10), (0x345#10, 0x345#10),
    (0x0D5#10, 0x0D5#10), (0x2C5#10, 0x2C5#10), (0x1C5#10, 0x1C5#10), (0x175#10, 0x285#10),
    (0x1B5#10, 0x245#10), (0x235#10, 0x235#10), (0x135#10, 0x135#10), (0x325#10, 0x325#10),
    (0x0B5#10, 0x0B5#10), (0x2A5#10, 0x2A5#10), (0x1A5#10, 0x1A5#10), (0x3A5#10, 0x055#10),
    (0x335#10, 0x0C5#10), (0x265#10, 0x265#10), (0x165#10, 0x165#10), (0x365#10, 0x095#10),
    (0x0E5#10, 0x0E5#10), (0x2E5#10, 0x115#10), (0x1E5#10, 0x215#10), (0x2B5#10, 0x145#10) ]

/-- Dx.3: (RD- symbol, RD+ symbol), x = 0 .. 31. -/
def romD3 : List (Sym × Sym) :=
  [ (0x273#10, 0x18C#10), (0x1D3#10, 0x22C#10), (0x2D3#10, 0x12C#10), (0x31C#10, 0x313#10),
    (0x353#10, 0x0AC#10), (0x29C#10, 0x293#10), (0x19C#10, 0x193#10), (0x38C#10, 0x073#10),
    (0x393#10, 0x06C#10), (0x25C#10, 0x253#10), (0x15C#10, 0x153#10), (0x34C#10, 0x343#10),
    (0x0DC#10, 0x0D3#10), (0x2CC#10, 0x2C3#10), (0x1CC#10, 0x1C3#10), (0x173#10, 0x28C#10),
    (0x1B3#10, 0x24C#10), (0x23C#10, 0x233#10), (0x13C#10, 0x133#10), (0x32C#10, 0x323#10),
    (0x0BC#10, 0x0B3#10), (0x2AC#10, 0x2A3#10), (0x1AC#10, 0x1A3#10), (0x3A3#10, 0x05C#10),
    (0x333#10, 0x0CC#10), (0x26C#10, 0x263#10), (0x16C#10, 0x163#10), (0x363#10, 0x09C#10),
    (0x0EC#10, 0x0E3#10), (0x2E3#10, 0x11C#10), (0x1E3#10, 0x21C#10), (0x2B3#10, 0x14C#10) ]

/-- Dx.4: (RD- symbol, RD+ symbol), x = 0 .. 31. -/
def romD4 : List (Sym × Sym) :=
  [ (0x272#10, 0x18D#10), (0x1D2#10, 0x22D#10), (0x2D2#10, 0x12D#10), (0x31D#10, 0x312#10),
    (0x352#10, 0x0AD#10), (0x29D#10, 0x292#10), (0x19D#10, 0x192#10), (0x38D#10, 0x072#10),
    (0x392#10, 0x06D#10), (0x25D#10, 0x252#10), (0x15D#10, 0x152#10), (0x34D#10, 0x342#10),
    (0x0DD#10, 0x0D2#10), (0x2CD#10, 0x2C2#10), (0x1CD#10, 0x1C2#10), (0x172#10, 0x28D#10),
    (0x1B2#10, 0x24D#10), (0x23D#10, 0x232#10), (0x13D#10, 0x132#10), (0x32D#10, 0x322#10),
    (0x0BD#10, 0x0B2#10), (0x2AD#10, 0x2A2#10), (0x1AD#10, 0x1A2#10), (0x3A2#10, 0x05D#10),
    (0x332#10, 0x0CD#10), (0x26D#10, 0x262#10), (0x16D#10, 0x162#10), (0x362#10, 0x09D#10),
    (0x0ED#10, 0x0E2#10), (0x2E2#10, 0x11D#10), (0x1E2#10, 0x21D#10), (0x2B2#10, 0x14D#10) ]

/-- Dx.5: (RD- symbol, RD+ symbol), x = 0 .. 31. -/
def romD5 : List (Sym × Sym) :=
  [ (0x27A#10, 0x18A#10), (0x1DA#10, 0x22A#10), (0x2DA#10, 0x12A#10), (0x31A#10, 0x31A#10),
    (0x35A#10, 0x0AA#10), (0x29A#10, 0x29A#10), (0x19A#10, 0x19A#10), (0x38A#10, 0x07A#10),
    (0x39A#10, 0x06A#10), (0x25A#10, 0x25A#10), (0x15A#10, 0x15A#10), (0x34A#10, 0x34A#10),
    (0x0DA#10, 0x0DA#10), (0x2CA#10, 0x2CA#10), (0x1CA#10, 0x1CA#10), (0x17A#10, 0x28A#10),
    (0x1BA#10, 0x24A#10), (0x23A#10, 0x23A#10), (0x13A#10, 0x13A#10), (0x32A#10, 0x32A#10),
    (0x0BA#10, 0x0BA#10), (0x2AA#10, 0x2AA#10), (0x1AA#10, 0x1AA#10), (0x3AA#10, 0x05A#10),
    (0x33A#10, 0x0CA#10), (0x26A#10, 0x26A#10), (0x16A#10, 0x16A#10), (0x36A#10, 0x09A#10),
    (0x0EA#10, 0x0EA#10), (0x2EA#10, 0x11A#10), (0x1EA#10, 0x21A#10), (0x2BA#10, 0x14A#10) ]

/-- Dx.6: (RD- symbol, RD+ symbol), x = 0 .. 31. -/
def romD6 : List (Sym × Sym) :=
  [ (0x276#10, 0x186#10), (0x1D6#10, 0x226#10), (0x2D6#10, 0x126#10), (0x316#10, 0x316#10),
    (0x356#10, 0x0A6#10), (0x296#10, 0x296#10), (0x196#10, 0x196#10), (0x386#10, 0x076#10),
    (0x396#10, 0x066#10), (0x256#10, 0x256#10), (0x156#10, 0x156#10), (0x346#10, 0x346#10),
    (0x0D6#10, 0x0D6#10), (0x2C6#10, 0x2C6#10), (0x1C6#10, 0x1C6#10), (0x176#10, 0x286#10),
    (0x1B6#10, 0x246#10), (0x236#10, 0x236#10), (0x136#10, 0x136#10), (0x326#10, 0x326#10),
    (0x0B6#10, 0x0B6#10), (0x2A6#10, 0x2A6#10), (0x1A6#10, 0x1A6#10), (0x3A6#10, 0x056#10),
    (0x336#10, 0x0C6#10), (0x266#10, 0x266#10), (0x166#10, 0x166#10), (0x366#10, 0x096#10),
    (0x0E6#10, 0x0E6#10), (0x2E6#10, 0x116#10), (0x1E6#10, 0x216#10), (0x2B6#10, 0x146#10) ]

/-- Dx.7: (RD- symbol, RD+ symbol), x = 0 .. 31. -/
def romD7 : List (Sym × Sym) :=
  [ (0x271#10, 0x18E#10), (0x1D1#10, 0x22E#10), (0x2D1#10, 0x12E#10), (0x31E#10, 0x311#10),
    (0x351#10, 0x0AE#10), (0x29E#10, 0x291#10), (0x19E#10, 0x191#10), (0x38E#10, 0x071#10),
    (0x391#10, 0x06E#10), (0x25E#10, 0x251#10), (0x15E#10, 0x151#10), (0x34E#10, 0x348#10),
    (0x0DE#10, 0x0D1#10), (0x2CE#10, 0x2C8#10), (0x1CE#10, 0x1C8#10), (0x171#10, 0x28E#10),
    (0x1B1#10, 0x24E#10), (0x237#10, 0x231#10), (0x137#10, 0x131#10), (0x32E#10, 0x321#10),
    (0x0B7#10, 0x0B1#10), (0x2AE#10, 0x2A1#10), (0x1AE#10, 0x1A1#10), (0x3A1#10, 0x05E#10),
    (0x331#10, 0x0CE#10), (0x26E#10, 0x261#10), (0x16E#10, 0x161#10), (0x361#10, 0x09E#10),
    (0x0EE#10, 0x0E1#10), (0x2E1#10, 0x11E#10), (0x1E1#10, 0x21E#10), (0x2B1#10, 0x14E#10) ]

/-- The 256 data entries, indexed by the byte value. -/
def romData : List (Sym × Sym) := romD0 ++ romD1 ++ romD2 ++ romD3 ++ romD4 ++ romD5 ++ romD6 ++ romD7

/-- The 12 control entries: byte value, RD- symbol, RD+ symbol. -/
def romControl : List (Byte × Sym × Sym) :=
  [ (0x1C#8, 0x0F4#10, 0x30B#10),
    (0x3C#8, 0x0F9#10, 0x306#10),
    (0x5C#8, 0x0F5#10, 0x30A#10),
    (0x7C#8, 0x0F3#10, 0x30C#10),
    (0x9C#8, 0x0F2#10, 0x30D#10),
    (0xBC#8, 0x0FA#10, 0x305#10),
    (0xDC#8, 0x0F6#10, 0x309#10),
    (0xFC#8, 0x0F8#10, 0x307#10),
    (0xF7#8, 0x3A8#10, 0x057#10),
    (0xFB#8, 0x368#10, 0x097#10),
    (0xFD#8, 0x2E8#10, 0x117#10),
    (0xFE#8, 0x1E8#10, 0x217#10) ]

/-- The ROM entry of a legal input, (0, 0) for any other. -/
def romEntry (v : Byte) (k : Bool) : Sym × Sym :=
  if k = true then
    match romControl.find? (fun r => r.1 == v) with
    | some r => r.2
    | none => (0#10, 0#10)
  else romData.getD v.toNat (0#10, 0#10)

/-- Encoding by the flat lookup; RD moves by the symbol's own delta (R82, R83). -/
def romEnc (v : Byte) (k : Bool) (rd : RD) : Sym × RD :=
  (pick rd (romEntry v k), rdBySign rd (delta (pick rd (romEntry v k))))

end Sys2Proof.Machine
end

