-- ==== Sys2Proof/Safety.lean ====
section
/-! DEFINITION. What counts as a safe run, in the terms claims use: the inputs the environment may present (R173), the
premise `enc.misuse = 0` (R33), the invariant of the registers, and the loopback wiring (R48, R177). -/

namespace Sys2Proof.Machine

/-- The instance an operation belongs to; an accessor read belongs to no cycle of any instance (R62). -/
def target (i : Instr) : Option Inst :=
  match i with
  | .encD _ => some .enc
  | .encK28_0 => some .enc
  | .encK28_1 => some .enc
  | .encK28_2 => some .enc
  | .encK28_3 => some .enc
  | .encK28_4 => some .enc
  | .encK28_5 => some .enc
  | .encK28_6 => some .enc
  | .encK28_7 => some .enc
  | .encK23_7 => some .enc
  | .encK27_7 => some .enc
  | .encK29_7 => some .enc
  | .encK30_7 => some .enc
  | .encBadk _ => some .enc
  | .dec _ => some .dec
  | .decInv _ => some .dec
  | .cdet _ => some .cd
  | .rst n => some n
  | .disp _ => none

/-- A legal encoder input word: no `ENC.BADK` (R81, R173). -/
def legalWord (w : EncWord) : Bool := legal (encWordByte w) (encWordK w)

/-- The premise of every claim about an encoder's output (R33, R165). -/
def State.noMisuse (s : State) : Prop := s.enc.misuse = false

/-- An encoder that was not misused holds its reset values, or a symbol of the code together with the RD after it. -/
def EncState.Inv (e : EncState) : Prop :=
  e.misuse = false →
    (e.q = 0#10 ∧ e.rd = .neg) ∨ ∃ v k rd, legal v k = true ∧ tableEnc v k rd = (e.q, e.rd)

/-- The decoder never shows both error flags (R114, R155), and shows a legal value where the codeword was valid. -/
def DecState.Inv (d : DecState) : Prop :=
  (d.inv = true → d.derr = false) ∧ (d.inv = false → legal d.d d.k = true)

/-- A comma detector that has received no word since reset shows no comma (R139, R140). -/
def CdState.Inv (c : CdState) : Prop := c.primed = false → c.prev = 0#10 ∧ c.pos = 0#10

/-- The invariant of the registers of the three instances. -/
def State.Inv (s : State) : Prop := s.enc.Inv ∧ s.dec.Inv ∧ s.cd.Inv

/-- The cycle in which every instance is reset (R173, R177). -/
def jointReset (w : EncWord) (sy r : Sym) : Event :=
  .cycle ⟨some (.driven true w), some (.driven true (.word sy)), some (.driven true (.word r))⟩

/-- A loopback cycle: the encoder takes a word and the decoder takes `enc.sym` (R48, R177); the comma detector's pins
are given beside them. -/
def loopback (w : EncWord) (c : Option LinePins) : Event :=
  .cycle ⟨some (.driven false w), some (.driven false .encOut), c⟩

/-- The state with these events presented next, ahead of all others. -/
def State.presentAll (s : State) (es : List Event) : State := { s with pending := es ++ s.pending }

/-- The symbols an encoder emits for a sequence of inputs, and the RD after them, by `Enc` (R93, R129). -/
def encodeSeq : RD → List (Byte × Bool) → List Sym × RD
  | rd, [] => ([], rd)
  | rd, p :: ps =>
    let r := tableEnc p.1 p.2 rd
    let rest := encodeSeq r.2 ps
    (r.1 :: rest.1, rest.2)

end Sys2Proof.Machine
end

