-- ==== Sys2Proof/Certificates/Slice0/Obligations.lean ====
section
/-! DEFINITION. The statements for the provers. Each docstring names the rule of spec/ it formalises. Where the spec itself
marks a rule as derived (its own inference), the statement says so and rests on the sections that rule is derived from. -/

open Sys2Proof Sys2Proof.Machine

/-! ## Encoding of operations -/

/-- A word on a port selects a well-formed operation, and presenting that operation gives the word back: for every
well-formed operation, with every operand (R62 to R64). -/
def Obligations.DecodeOfEncodedOperation : Prop :=
  ∀ i : Instr, i.wf = true → decode (encode i).1 (encode i).2 = .ok i

/-- Each accepted word has one meaning (R62): what a port word decodes to is well formed and encodes to that word. -/
def Obligations.EncodeOfDecodedWord : Prop :=
  ∀ (p : Port) (w : Nat) (i : Instr), decode p w = .ok i → i.wf = true ∧ encode i = (p, w)

/-- Words written out from ENC_IN, SYM and the rows of the opcode table (R51, R52, R58, R62). -/
def Obligations.TableWordsDecode : Prop :=
  decode .encIn 0b010110101 = .ok (.encD 0xB5#8) ∧
  decode .encIn 0b110111100 = .ok .encK28_5 ∧
  decode .encIn 0b111111110 = .ok .encK30_7 ∧
  decode .encIn 0b111111111 = .ok (.encBadk 0xFF#8) ∧
  decode .decS 0b0011111010 = .ok (.dec 0x0FA#10) ∧
  decode .decS 0b0000000000 = .ok (.decInv 0x000#10) ∧
  decode .cdW 0b0011111010 = .ok (.cdet 0x0FA#10) ∧
  decode (.rst .dec) 1 = .ok (.rst .dec) ∧
  decode (.disp .enc) 0 = .ok (.disp .enc)

/-- There are no longer forms (R68): a number wider than its port is rejected by name. A `rst` pin at 0 selects no reset
and is rejected by name. Every other number is an operation (R67). -/
def Obligations.OnlyPortWidthWordsDecode : Prop :=
  (∀ (p : Port) (w : Nat),
    (2 ^ p.width ≤ w → decode p w = .error (.tooWide p)) ∧
    (w < 2 ^ p.width → (∀ n, p = .rst n → w ≠ 0) → ∃ i, decode p w = .ok i)) ∧
  ∀ n : Inst, decode (.rst n) 0 = .error (.rstLow n)

/-- R62, R63: the 512 ENC_IN words are 256 data inputs, 12 control codes and 244 unsupported control values, and every
encoder word selects an operation of the encoder. -/
def Obligations.EncoderOperationCounts : Prop :=
  (List.range 512).countP (fun w => match selectEnc false (BitVec.ofNat 9 w) with | .encD _ => true | _ => false) = 256 ∧
  (List.range 512).countP (fun w => match selectEnc false (BitVec.ofNat 9 w) with | .encBadk _ => true | _ => false)
    = 244 ∧
  (List.range 512).countP (fun w => match selectEnc false (BitVec.ofNat 9 w) with
    | .encD _ => false
    | .encBadk _ => false
    | _ => true) = 12 ∧
  ∀ w : EncWord, target (selectEnc false w) = some .enc

/-! ## Symbol table -/

/-- R76: `disparity(p, w) = 2*popcount(p) - w`, counting the 1 bits one by one; for an even width it is an even integer in
[-w, +w]; `delta` is the disparity of a symbol, -10 for all zeros and +10 for all ones. -/
def Obligations.DisparityCountsOnes : Prop :=
  (∀ (w : Nat) (p : BitVec w),
    disparity p = 2 * ((List.range w).countP (fun i => p.getLsbD i) : Int) - (w : Int) ∧
    -(w : Int) ≤ disparity p ∧ disparity p ≤ (w : Int) ∧ (w % 2 = 0 → disparity p % 2 = 0)) ∧
  (∀ s : Sym, delta s = disparity s) ∧ delta 0b0000000000#10 = -10 ∧ delta 0b1111111111#10 = 10

/-- The whole-symbol form of the RD update (the spec marks R82 and R83 as derived): RD after = RD + delta, and delta is 0
or -2*RD, on the machine: for every legal encoder input, in every state. -/
def Obligations.EncoderRdFollowsDelta : Prop :=
  ∀ (s : State) (w : EncWord), legalWord w = true →
    ∃ t, exec (selectEnc false w) s = .next t ∧
      t.enc.rd.toInt = s.enc.rd.toInt + delta t.enc.q ∧
      (delta t.enc.q = 0 ∨ delta t.enc.q = -2 * s.enc.rd.toInt)

/-- How the two encodings of a value relate (the spec marks R84 and R85 as derived): 72 data bytes have one pattern, 56
have complementary patterns, and every control code has complementary patterns. -/
def Obligations.EncodingVariantCounts : Prop :=
  (List.range 256).countP
    (fun n => (tableEnc (BitVec.ofNat 8 n) false .neg).1 == (tableEnc (BitVec.ofNat 8 n) false .pos).1) = 72 ∧
  (List.range 256).countP
    (fun n => (tableEnc (BitVec.ofNat 8 n) false .pos).1 == ~~~(tableEnc (BitVec.ofNat 8 n) false .neg).1) = 56 ∧
  (List.range 256).countP
    (fun n => symSub6 (tableEnc (BitVec.ofNat 8 n) false .neg).1 == symSub6 (tableEnc (BitVec.ofNat 8 n) false .pos).1
      ^^ symSub4 (tableEnc (BitVec.ofNat 8 n) false .neg).1 == symSub4 (tableEnc (BitVec.ofNat 8 n) false .pos).1) = 128 ∧
  ∀ d ∈ kset, (tableEnc d true .pos).1 = ~~~(tableEnc d true .neg).1

/-- R88: the valid codewords are exactly the encodings of legal inputs; 464 = 72 + 196 + 196 of the 1024 patterns are valid,
72 at both RDs and 196 at each RD alone; every one has delta -2, 0 or +2; the all-zero and all-one patterns are not valid,
and neither is D17.7 with P7 at RD-. -/
def Obligations.ValidCodewordSet : Prop :=
  (∀ s : Sym, validSym s = true ↔ ∃ v k rd, legal v k = true ∧ (tableEnc v k rd).1 = s) ∧
  (List.range 1024).countP (fun n => validSym (BitVec.ofNat 10 n)) = 464 ∧
  (List.range 1024).countP
    (fun n => expected (BitVec.ofNat 10 n) .neg && expected (BitVec.ofNat 10 n) .pos) = 72 ∧
  (List.range 1024).countP
    (fun n => expected (BitVec.ofNat 10 n) .neg && !expected (BitVec.ofNat 10 n) .pos) = 196 ∧
  (List.range 1024).countP
    (fun n => !expected (BitVec.ofNat 10 n) .neg && expected (BitVec.ofNat 10 n) .pos) = 196 ∧
  (∀ s : Sym, validSym s = true → delta s = -2 ∨ delta s = 0 ∨ delta s = 2) ∧
  validSym 0b0000000000#10 = false ∧ validSym 0b1111111111#10 = false ∧ validSym 0b1000111110#10 = false

/-- No symbol is the encoding of two different legal inputs, under either RD (R89, which the spec marks as derived). -/
def Obligations.EncodingIsInjective : Prop :=
  ∀ (v₁ v₂ : Byte) (k₁ k₂ : Bool) (rd₁ rd₂ : RD), legal v₁ k₁ = true → legal v₂ k₂ = true →
    (tableEnc v₁ k₁ rd₁).1 = (tableEnc v₂ k₂ rd₂).1 → v₁ = v₂ ∧ k₁ = k₂

/-- R90: `Dec(s)` is the one legal input with s among its two encodings; it exists exactly for s in V. -/
def Obligations.DecIsTheInverse : Prop :=
  ∀ s : Sym,
    (∀ v k, tableDec s = some (v, k) ↔
      legal v k = true ∧ (s = (tableEnc v k .neg).1 ∨ s = (tableEnc v k .pos).1)) ∧
    (tableDec s = none ↔ validSym s = false)

/-- R95: the sub-block functions and the 536-entry table that the spec prints give the same values. -/
def Obligations.SubBlockCodeEqualsFlatTable : Prop :=
  ∀ (v : Byte) (k : Bool) (rd : RD), legal v k = true → tableEnc v k rd = romEnc v k rd

/-- Run length (R92, which the spec marks as derived): in two symbols emitted in sequence from legal inputs no six
consecutive line bits are equal. -/
def Obligations.NoRunOfSixEqualBits : Prop :=
  ∀ (v₁ v₂ : Byte) (k₁ k₂ : Bool) (rd : RD), legal v₁ k₁ = true → legal v₂ k₂ = true →
    ∀ i, i < 15 →
      ∃ j, j < 6 ∧
        ((tableEnc v₁ k₁ rd).1 ++ (tableEnc v₂ k₂ (tableEnc v₁ k₁ rd).2).1).getLsbD (i + j) ≠
          ((tableEnc v₁ k₁ rd).1 ++ (tableEnc v₂ k₂ (tableEnc v₁ k₁ rd).2).1).getLsbD i

/-- DC balance (R93 and R129, which the spec marks as derived): over any legal inputs the deltas of the emitted symbols
sum to the change of RD, one of -2, 0, +2; and inside a symbol the running sum stays within [-3, +3]. -/
def Obligations.DcBalance : Prop :=
  (∀ (rd : RD) (ps : List (Byte × Bool)), (∀ p ∈ ps, legal p.1 p.2 = true) →
    ((encodeSeq rd ps).1.map delta).sum = (encodeSeq rd ps).2.toInt - rd.toInt ∧
    (((encodeSeq rd ps).1.map delta).sum = -2 ∨ ((encodeSeq rd ps).1.map delta).sum = 0 ∨
      ((encodeSeq rd ps).1.map delta).sum = 2)) ∧
  ∀ (v : Byte) (k : Bool) (rd : RD), legal v k = true → ∀ n, n ≤ 10 →
    -3 ≤ rd.toInt + (2 * (popcount ((tableEnc v k rd).1 >>> (10 - n)) : Int) - n) ∧
      rd.toInt + (2 * (popcount ((tableEnc v k rd).1 >>> (10 - n)) : Int) - n) ≤ 3

/-! ## Encoder -/

/-- R97, the whole encoder cycle: reset first, then a legal input, then an unsupported control value, whose symbol and
next RD are left open. Everything not named is unchanged (`draws` counts the model's draws, log entry 1). -/
def Obligations.EncoderCycle : Prop :=
  ∀ (rst : Bool) (w : EncWord) (s : State),
    (rst = true → exec (selectEnc rst w) s = .next { s with enc := { s.enc with rd := .neg, q := 0#10 } }) ∧
    (rst = false → (encWordK w = false ∨ inKset (encWordByte w) = true) →
      exec (selectEnc rst w) s =
        .next { s with enc :=
          { s.enc with
            q := (tableEnc (encWordByte w) (encWordK w) s.enc.rd).1
            rd := (tableEnc (encWordByte w) (encWordK w) s.enc.rd).2 } }) ∧
    (rst = false → encWordK w = true → inKset (encWordByte w) = false →
      ∃ q rd, exec (selectEnc rst w) s =
        .next { s with enc := { q := q, rd := rd, misuse := true, draws := s.enc.draws + 1 } })

/-- The data operation `ENC.D` completes on every byte in every state (R98's pseudocode): it writes `enc.q` and `enc.rd`
only, RD is unchanged by a balanced symbol and flips otherwise, and the symbol decodes to the byte. -/
def Obligations.EncodeDataByte : Prop :=
  ∀ (d : Byte) (s : State),
    exec (.encD d) s =
      .next { s with enc :=
        { s.enc with
          q := (tableEnc d false s.enc.rd).1
          rd := if delta (tableEnc d false s.enc.rd).1 = 0 then s.enc.rd else s.enc.rd.flip } } ∧
    tableDec (tableEnc d false s.enc.rd).1 = some (d, false)

/-- The operation latches one symbol at RD- and another at RD+, leaves RD or flips it, and changes nothing else. -/
def Sys2Proof.EncodesAs (i : Instr) (atNeg atPos : Sym) (flips : Bool) : Prop :=
  ∀ s : State, exec i s =
    .next { s with enc :=
      { s.enc with
        q := match s.enc.rd with
          | .neg => atNeg
          | .pos => atPos
        rd := if flips = true then s.enc.rd.flip else s.enc.rd } }

/-- R100 with the symbols printed in R60: every control code completes in every state; K28.1, K28.2, K28.3, K28.5 and
K28.6 flip RD and the other seven leave it. -/
def Obligations.EncodeControlCodes : Prop :=
  EncodesAs .encK28_0 0x0F4#10 0x30B#10 false ∧
  EncodesAs .encK28_1 0x0F9#10 0x306#10 true ∧
  EncodesAs .encK28_2 0x0F5#10 0x30A#10 true ∧
  EncodesAs .encK28_3 0x0F3#10 0x30C#10 true ∧
  EncodesAs .encK28_4 0x0F2#10 0x30D#10 false ∧
  EncodesAs .encK28_5 0x0FA#10 0x305#10 true ∧
  EncodesAs .encK28_6 0x0F6#10 0x309#10 true ∧
  EncodesAs .encK28_7 0x0F8#10 0x307#10 false ∧
  EncodesAs .encK23_7 0x3A8#10 0x057#10 false ∧
  EncodesAs .encK27_7 0x368#10 0x097#10 false ∧
  EncodesAs .encK29_7 0x2E8#10 0x117#10 false ∧
  EncodesAs .encK30_7 0x1E8#10 0x217#10 false

/-- R99: an unsupported control value completes in every state; `enc.q` and `enc.rd` get values the spec leaves open, the
ghost bit is set, and nothing else changes (`draws` counts the model's draws, log entry 1). -/
def Obligations.EncodeUnsupportedControl : Prop :=
  ∀ (d : Byte) (s : State), inKset d = false →
    ∃ q rd, exec (.encBadk d) s =
      .next { s with enc := { q := q, rd := rd, misuse := true, draws := s.enc.draws + 1 } }

/-- Model's choice (log entry 6): an operation whose operand does not meet its row's condition, which no pins select, does
what the pins with that operand do. -/
def Obligations.OperandDecidesOperation : Prop :=
  ∀ (s : State) (d : Byte) (sy : Sym),
    exec (.encBadk d) s = exec (selectEnc false (encWord true d)) s ∧
    exec (.encD d) s = exec (selectEnc false (encWord false d)) s ∧
    exec (.dec sy) s = exec (selectDec false sy) s ∧
    exec (.decInv sy) s = exec (selectDec false sy) s

/-- The ghost bit is 0 at every power-up, when the model is created, is set by exactly the unsupported control values, and
is never cleared, not even by reset (R33). That it is 0 in `State.reset` is the model's choice (log entry 8): that state
stands for a machine that was not misused before its first reset. -/
def Obligations.MisuseIsSticky : Prop :=
  State.reset.enc.misuse = false ∧
  (∀ n, (State.powerUp n).enc.misuse = false) ∧
  ∀ (i : Instr) (s : State), ∃ t, exec i s = .next t ∧
    (t.enc.misuse = true ↔ s.enc.misuse = true ∨ ∃ d, i = .encBadk d ∧ inKset d = false)

/-- The machine emits what `Enc` gives along any sequence of legal inputs, with the RD carried from each to the next (R47,
R103; the spec marks R103 as derived). -/
def Obligations.EncoderRunEmitsSequence : Prop :=
  ∀ (s : State) (ps : List (Byte × Bool)) (p : Byte × Bool), (∀ x ∈ ps ++ [p], legal x.1 x.2 = true) →
    ∃ t, execAll ((ps ++ [p]).map (fun x => selectEnc false (encWord x.2 x.1))) s = .next t ∧
      some t.enc.q = (encodeSeq s.enc.rd (ps ++ [p])).1.getLast? ∧
      t.enc.rd = (encodeSeq s.enc.rd (ps ++ [p])).2 ∧
      t.enc.misuse = s.enc.misuse ∧ t.dec = s.dec ∧ t.cd = s.cd

/-- Idempotent reset (R104 and R172, which the spec marks as derived): two encoders, whatever their states, that are reset
and given the same legal inputs show the same symbol and the same RD, after every number of inputs. -/
def Obligations.ResetThenSameInputsSameOutputs : Prop :=
  ∀ (s₁ s₂ : State) (ws : List EncWord), (∀ w ∈ ws, legalWord w = true) →
    ∃ t₁ t₂, execAll (.rst .enc :: ws.map (selectEnc false)) s₁ = .next t₁ ∧
      execAll (.rst .enc :: ws.map (selectEnc false)) s₂ = .next t₂ ∧
      t₁.ports.encSym = t₂.ports.encSym ∧ t₁.ports.encDisp = t₂.ports.encDisp

/-! ## Decoder -/

/-- R109: a valid codeword, that is an encoding of a legal input at either RD, decodes to that input in every state,
whatever the decoder's RD (R116); `invalid` is 0, `disp_err` says the symbol was not expected at this RD, RD takes the
sign of the symbol's delta, and nothing else changes. -/
def Obligations.DecodeValidCodeword : Prop :=
  ∀ (v : Byte) (k : Bool) (rd : RD) (s : State), legal v k = true →
    exec (.dec (tableEnc v k rd).1) s =
      .next { s with dec :=
        { s.dec with
          rd := if 0 < delta (tableEnc v k rd).1 then .pos
            else if delta (tableEnc v k rd).1 < 0 then .neg else s.dec.rd
          d := v
          k := k
          inv := false
          derr := !expected (tableEnc v k rd).1 s.dec.rd } }

/-- R108, the whole decoder cycle: reset first, then a valid codeword, then an invalid one, whose value and flag are left
open. Everything not named is unchanged (`draws` counts the model's draws, log entry 1). -/
def Obligations.DecoderCycle : Prop :=
  ∀ (rst : Bool) (sy : Sym) (s : State),
    (rst = true → exec (selectDec rst sy) s =
      .next { s with dec := { s.dec with rd := .neg, d := 0x00#8, k := false, inv := false, derr := false } }) ∧
    (rst = false → ∀ v k, tableDec sy = some (v, k) → exec (selectDec rst sy) s =
      .next { s with dec :=
        { s.dec with
          rd := if 0 < delta sy then .pos else if delta sy < 0 then .neg else s.dec.rd
          d := v
          k := k
          inv := false
          derr := !expected sy s.dec.rd } }) ∧
    (rst = false → validSym sy = false → ∃ v k, exec (selectDec rst sy) s =
      .next { s with dec :=
        { rd := if 0 < delta sy then .pos else if delta sy < 0 then .neg else s.dec.rd
          d := v
          k := k
          inv := true
          derr := false
          draws := s.dec.draws + 1 } })

/-- R110: an invalid codeword completes in every state: `invalid` is 1, `disp_err` is 0, the value and the flag are left
open, RD takes the sign of the symbol's delta, and nothing else changes (`draws` counts the model's draws, log entry 1);
and `invalid` is shown for that cycle only: the next symbol decides it anew. -/
def Obligations.DecodeInvalidCodeword : Prop :=
  ∀ (sy : Sym) (s : State), validSym sy = false →
    (∃ v k, exec (.decInv sy) s =
      .next { s with dec :=
        { rd := if 0 < delta sy then .pos else if delta sy < 0 then .neg else s.dec.rd
          d := v
          k := k
          inv := true
          derr := false
          draws := s.dec.draws + 1 } }) ∧
    ∀ sy' : Sym, ∃ t, execAll [.decInv sy, selectDec false sy'] s = .next t ∧
      (t.dec.inv = true ↔ validSym sy' = false)

/-- R111, R113 and R114 over every symbol: `invalid` says the symbol is outside V, `disp_err` says it is in V and an encoder
at the decoder's RD could not have emitted it, the two are never both 1, and RD takes the sign of the delta. -/
def Obligations.DecoderFlagsAndRd : Prop :=
  ∀ (sy : Sym) (s : State), ∃ t, exec (selectDec false sy) s = .next t ∧
    (t.dec.inv = true ↔ validSym sy = false) ∧
    (t.dec.derr = true ↔ validSym sy = true ∧ ∀ v k, legal v k = true → (tableEnc v k s.dec.rd).1 ≠ sy) ∧
    ¬(t.dec.inv = true ∧ t.dec.derr = true) ∧
    (0 < delta sy → t.dec.rd = .pos) ∧ (delta sy < 0 → t.dec.rd = .neg) ∧ (delta sy = 0 → t.dec.rd = s.dec.rd)

/-- No decoder flag is sticky and none stops the decoder (R115): what `dec.d_q`, `dec.k_q`, `dec.inv_q` and `dec.derr_q`
were before has no effect on the next state. For an invalid symbol R110 leaves the next value and flag open; that they too
do not depend on the old ones is the model's choice of a draw's operands (log entry 1), not the spec's. -/
def Obligations.DecoderFlagsAreNotSticky : Prop :=
  ∀ (sy : Sym) (s : State) (d : Byte) (k inv derr : Bool),
    (∃ t, exec (selectDec false sy) s = .next t) ∧
    exec (selectDec false sy) { s with dec := { s.dec with d := d, k := k, inv := inv, derr := derr } } =
      exec (selectDec false sy) s

/-- Agreement with the encoder (R112, which the spec marks as derived): a decoder at the encoder's RD that receives the
symbol the encoder emits next recovers the input, raises no flag, and ends at the encoder's new RD. -/
def Obligations.DecoderTracksEncoder : Prop :=
  ∀ (s : State) (w : EncWord), legalWord w = true → s.dec.rd = s.enc.rd →
    ∃ t u, exec (selectEnc false w) s = .next t ∧ exec (selectDec false t.enc.q) t = .next u ∧
      u.dec.rd = u.enc.rd ∧ u.enc = t.enc ∧ u.dec.d = encWordByte w ∧ u.dec.k = encWordK w ∧
      u.dec.inv = false ∧ u.dec.derr = false

/-- Mismatched RD (R119 and R174, the spec's own inference from its decision D11): the value is right whatever the
decoder's RD, and after the first unbalanced valid symbol the decoder's RD is the encoder's. -/
def Obligations.DecoderConvergesOnUnbalancedSymbol : Prop :=
  ∀ (v : Byte) (k : Bool) (rd : RD) (s : State), legal v k = true →
    ∃ t, exec (selectDec false (tableEnc v k rd).1) s = .next t ∧
      t.dec.d = v ∧ t.dec.k = k ∧ t.dec.inv = false ∧
      (delta (tableEnc v k rd).1 ≠ 0 → t.dec.rd = (tableEnc v k rd).2) ∧
      (delta (tableEnc v k rd).1 = 0 → t.dec.rd = s.dec.rd)

/-- R151 to R153: what each error condition records. E1 sets only the model's ghost bit; E2 shows `invalid`; E3 shows
`disp_err` with the right value; a decoder cycle without a condition shows neither flag; and no condition stops the
machine. -/
def Obligations.ConditionsAreRecorded : Prop :=
  ∀ (i : Instr) (s : State), i.wf = true → ∃ t, exec i s = .next t ∧
    (condition i s = some .unsupportedControl →
      t.enc.misuse = true ∧ t.dec = s.dec ∧ t.cd = s.cd) ∧
    (condition i s = some .invalidCodeword → t.dec.inv = true ∧ t.dec.derr = false ∧ t.enc = s.enc) ∧
    (condition i s = some .disparityError →
      t.dec.inv = false ∧ t.dec.derr = true ∧ t.enc = s.enc ∧
        ∃ sy, i = .dec sy ∧ tableDec sy = some (t.dec.d, t.dec.k)) ∧
    (condition i s = none → target i = some .dec → t.dec.inv = false ∧ t.dec.derr = false)

/-! ## Comma detector -/

/-- R134: window 0 of a pair is its first word, window k is `p[9-k:0]` followed by `c[9:10-k]`, bit by bit, and the windows
of consecutive pairs of a stream of three words are the ten bits at each bit offset of the stream, in turn. -/
def Obligations.WindowBits : Prop :=
  (∀ p c : Sym, window p c 0 = p) ∧
  (∀ (p c : Sym) (k j : Nat), k < 10 → j < 10 →
    (window p c k).getLsbD j = if j < k then c.getLsbD (10 - k + j) else p.getLsbD (j - k)) ∧
  ∀ (a b c : Sym) (n : Nat), n < 20 →
    ((a ++ b ++ c) >>> (20 - n)).setWidth 10 = if n < 10 then window a b n else window b c (n - 10)

/-- R137 to R139: reset clears the detector, whatever the word; without it the operation is `CDET`, which completes in
every state: the word becomes `cd.prev`, `cd.primed` becomes 1, bit k of `cd.comma_pos` says that window k of the previous
and the new word is one of the six patterns, none is set before a word was received, `cd.comma` is the OR of the ten bits,
and nothing else changes. -/
def Obligations.DetectorCycle : Prop :=
  ∀ (w : Sym) (s : State),
    exec (selectCd true w) s = .next { s with cd := { prev := 0#10, primed := false, pos := 0#10 } } ∧
    selectCd false w = .cdet w ∧
    ∃ pos, exec (.cdet w) s = .next { s with cd := { prev := w, primed := true, pos := pos } } ∧
      (∀ k, k < 10 →
        (pos.getLsbD k = true ↔ s.cd.primed = true ∧
          window s.cd.prev w k ∈ [0x0F9#10, 0x306#10, 0x0FA#10, 0x305#10, 0x0F8#10, 0x307#10])) ∧
      ∀ t, exec (.cdet w) s = .next t →
        t.ports.cdCommaPos = pos ∧ (t.ports.cdComma = true ↔ ∃ k, k < 10 ∧ pos.getLsbD k = true)

/-- R140 (and R181, which the spec marks as derived): in every state, after two words the detector shows the windows of the
two; after a reset it shows no comma, and after the first word it still shows none. -/
def Obligations.DetectorWarmUp : Prop :=
  (∀ (s : State) (w₁ w₂ : Sym), ∃ t, execAll [.cdet w₁, .cdet w₂] s = .next t ∧
    t.ports.cdCommaPos = commaMatch w₁ w₂) ∧
  ∀ (s : State) (w : Sym), ∃ t₀ t₁,
    exec (.rst .cd) s = .next t₀ ∧ t₀.ports.cdCommaPos = 0#10 ∧ t₀.ports.cdComma = false ∧
    exec (.cdet w) t₀ = .next t₁ ∧ t₁.ports.cdCommaPos = 0#10 ∧ t₁.ports.cdComma = false

/-- Comma carriers (R136, which the spec marks as derived): of the legal encodings, exactly those of K28.1, K28.5 and K28.7
are comma patterns. -/
def Obligations.CommaCarriers : Prop :=
  ∀ (v : Byte) (k : Bool) (rd : RD), legal v k = true →
    (isComma (tableEnc v k rd).1 = true ↔ k = true ∧ (v = 0x3C#8 ∨ v = 0xBC#8 ∨ v = 0xFC#8))

/-- A comma on an aligned stream is found at bit 0 (R143, which the spec marks as derived), whatever word follows it, and a
decoder given the same symbol reports that control code. -/
def Obligations.AlignedCommaIsFoundAtBitZero : Prop :=
  ∀ (v : Byte) (rd : RD) (c : Sym) (s : State), v = 0x3C#8 ∨ v = 0xBC#8 ∨ v = 0xFC#8 →
    s.cd.primed = true → s.cd.prev = (tableEnc v true rd).1 →
    (∃ t, exec (.cdet c) s = .next t ∧ t.ports.cdCommaPos.getLsbD 0 = true ∧ t.ports.cdComma = true) ∧
    ∃ u, exec (.dec s.cd.prev) s = .next u ∧ u.ports.decD = v ∧ u.ports.decK = true

/-- No spurious commas (R141, which the spec marks as derived): no window of two consecutive data symbols is a comma
pattern. -/
def Obligations.NoCommaBetweenDataSymbols : Prop :=
  ∀ (d₁ d₂ : Byte) (rd : RD) (k : Nat), k < 10 →
    isComma (window (tableEnc d₁ false rd).1 (tableEnc d₂ false (tableEnc d₁ false rd).2).1 k) = false

/-- Straddling commas (R142, which the spec marks as derived): among two consecutive legal symbols a window that straddles
their boundary is a comma pattern exactly when it is window 5, the first is K28.7, and the next is D12.y, D20.y, D28.y or
K28.y at RD-, or D3.y, D11.y, D19.y or K28.y at RD+; and the window's value is the one the rule gives. -/
def Obligations.StraddlingCommasFollowK28_7 : Prop :=
  (∀ (v₁ v₂ : Byte) (k₁ k₂ : Bool) (rd : RD) (k : Nat), legal v₁ k₁ = true → legal v₂ k₂ = true → 1 ≤ k → k < 10 →
    (isComma (window (tableEnc v₁ k₁ rd).1 (tableEnc v₂ k₂ (tableEnc v₁ k₁ rd).2).1 k) = true ↔
      k = 5 ∧ v₁ = 0xFC#8 ∧ k₁ = true ∧
        ((rd = .neg ∧ ((k₂ = false ∧ (codeX v₂ = 12#5 ∨ codeX v₂ = 20#5)) ∨ codeX v₂ = 28#5)) ∨
          (rd = .pos ∧ ((k₂ = false ∧ (codeX v₂ = 3#5 ∨ codeX v₂ = 11#5 ∨ codeX v₂ = 19#5)) ∨
            (k₂ = true ∧ codeX v₂ = 28#5)))))) ∧
  ∀ y : BitVec 3,
    window 0x0F8#10 (tableEnc (codeByte 12#5 y) false .neg).1 5 = 0x306#10 ∧
    window 0x0F8#10 (tableEnc (codeByte 20#5 y) false .neg).1 5 = 0x305#10 ∧
    window 0x0F8#10 (tableEnc (codeByte 28#5 y) false .neg).1 5 = 0x307#10 ∧
    window 0x0F8#10 (tableEnc (codeByte 28#5 y) true .neg).1 5 = 0x307#10 ∧
    window 0x307#10 (tableEnc (codeByte 19#5 y) false .pos).1 5 = 0x0F9#10 ∧
    window 0x307#10 (tableEnc (codeByte 11#5 y) false .pos).1 5 = 0x0FA#10 ∧
    window 0x307#10 (tableEnc (codeByte 3#5 y) false .pos).1 5 = 0x0F8#10 ∧
    window 0x307#10 (tableEnc (codeByte 28#5 y) true .pos).1 5 = 0x0F8#10

/-! ## Reset, accessors and ports -/

/-- R167: a reset of an instance loads its reset values in every state and leaves everything else, the ghost bit among it;
and `rst` = 1 takes the place of every other operation, the input being discarded. -/
def Obligations.ResetLoadsResetValues : Prop :=
  ∀ s : State,
    exec (.rst .enc) s = .next { s with enc := { s.enc with rd := .neg, q := 0b0000000000#10 } } ∧
    exec (.rst .dec) s =
      .next { s with dec := { s.dec with rd := .neg, d := 0x00#8, k := false, inv := false, derr := false } } ∧
    exec (.rst .cd) s = .next { s with cd := { prev := 0#10, primed := false, pos := 0#10 } } ∧
    (∀ w, selectEnc true w = .rst .enc) ∧ (∀ sy, selectDec true sy = .rst .dec) ∧ ∀ w, selectCd true w = .rst .cd

/-- After a cycle with `rst` = 1 every register holds its reset value, from every state, power-up included, and the ghost bit
is not changed (R34). `State.reset` holds the same register values; that its ghost bit is 0 is the model's choice (log
entry 8): that state stands for a machine that was not misused before its first reset. -/
def Obligations.EveryRegisterHasItsResetValue : Prop :=
  (∀ (s : State) (w : EncWord) (sy r : Sym), ∃ t, step (s.present (jointReset w sy r)) = .next t ∧
    t.enc.rd = .neg ∧ t.enc.q = 0#10 ∧ t.enc.misuse = s.enc.misuse ∧
    t.dec.rd = .neg ∧ t.dec.d = 0x00#8 ∧ t.dec.k = false ∧ t.dec.inv = false ∧ t.dec.derr = false ∧
    t.cd.prev = 0#10 ∧ t.cd.primed = false ∧ t.cd.pos = 0#10) ∧
  State.reset.enc.rd = .neg ∧ State.reset.enc.q = 0#10 ∧ State.reset.enc.misuse = false ∧
  State.reset.dec.rd = .neg ∧ State.reset.dec.d = 0x00#8 ∧ State.reset.dec.k = false ∧
  State.reset.dec.inv = false ∧ State.reset.dec.derr = false ∧
  State.reset.cd.prev = 0#10 ∧ State.reset.cd.primed = false ∧ State.reset.cd.pos = 0#10

/-- R126: a read of an accessor completes in every state, gives its reader 0 for RD = -1 and 1 for RD = +1, and writes no
register; after a reset it shows 0. (`reading` is the reader's side, log entry 5.) -/
def Obligations.AccessorShowsRd : Prop :=
  ∀ s : State,
    exec (.disp .enc) s = .next { s with reading := some (.enc, if s.enc.rd = .neg then 0#1 else 1#1) } ∧
    exec (.disp .dec) s = .next { s with reading := some (.dec, if s.dec.rd = .neg then 0#1 else 1#1) } ∧
    s.ports.encDisp = (if s.enc.rd = .neg then 0#1 else 1#1) ∧
    s.ports.decDisp = (if s.dec.rd = .neg then 0#1 else 1#1) ∧
    (∃ t, exec (.rst .enc) s = .next t ∧ t.ports.encDisp = 0#1) ∧
    ∃ t, exec (.rst .dec) s = .next t ∧ t.ports.decDisp = 0#1

/-- R175: every output is registered. What is presented in a cycle does not change what the ports show in it; the step
that ends the cycle puts the result of that input on the ports, for every legal encoder input, every decoder symbol and
every comma-detector word (R101, R117, R140). -/
def Obligations.OutputsAreRegistered : Prop :=
  (∀ (s : State) (e : Event), (s.present e).ports = s.ports) ∧
  (∀ (s : State) (w : EncWord), legalWord w = true → ∃ t, step (s.present (portEvent .encIn w.toNat)) = .next t ∧
    t.ports.encSym = (tableEnc (encWordByte w) (encWordK w) s.enc.rd).1 ∧
    t.ports.encDisp = (tableEnc (encWordByte w) (encWordK w) s.enc.rd).2.toBit) ∧
  (∀ (s : State) (sy : Sym), ∃ t, step (s.present (portEvent .decS sy.toNat)) = .next t ∧
    t.ports.decInvalid = !validSym sy ∧
    t.ports.decDispErr = (validSym sy && !expected sy s.dec.rd) ∧
    t.ports.decDisp = (decNextRd s.dec.rd sy).toBit ∧
    ∀ v k, tableDec sy = some (v, k) → t.ports.decD = v ∧ t.ports.decK = k) ∧
  ∀ (s : State) (w : Sym), ∃ t, step (s.present (portEvent .cdW w.toNat)) = .next t ∧
    t.ports.cdCommaPos = (if s.cd.primed = true then commaMatch s.cd.prev w else 0#10)

/-! ## Steps and instances -/

/-- A step runs the operation that the presented word selects, on that port's instance only, with the event taken off and
the cycle index advanced (an accessor read is not a cycle); with nothing presented, all three instances step on undriven
pins (R20, R62, R70; log entries 3 and 4). -/
def Obligations.StepRunsPresentedOperation : Prop :=
  (∀ (s : State) (p : Port) (w : Nat) (i : Instr), decode p w = .ok i →
    step (s.present (portEvent p w)) =
      exec i (match p with
        | .disp _ => s
        | _ => { s with cycle := s.cycle + 1 })) ∧
  ∀ s : State, s.pending = [] → step s = step (s.present (.cycle Cycle.undriven))

/-- Every step of every state answers a next state: no input is refused and nothing hangs (R154, R165). -/
def Obligations.EveryStepGoesOn : Prop := ∀ s : State, ∃ t, step s = .next t

/-- R9: in one cycle every instance with an edge takes its own operation on the values from before the edge, the loopback
wire among them; an instance without an edge keeps its registers (log entry 3). That a draw has the value it has when the
operation runs alone is the model's choice (log entry 1). -/
def Obligations.CycleReadsValuesFromBeforeTheEdge : Prop :=
  ∀ (s : State) (c : Cycle), ∃ t, step (s.present (.cycle c)) = .next t ∧
    (∀ p, c.enc = some p → ∃ u, exec (p.op s) s = .next u ∧ t.enc = u.enc) ∧
    (∀ p, c.dec = some p → ∃ u, exec (p.decOp s) s = .next u ∧ t.dec = u.dec) ∧
    (∀ p, c.cd = some p → ∃ u, exec (p.cdOp s) s = .next u ∧ t.cd = u.cd) ∧
    (c.enc = none → t.enc = s.enc) ∧ (c.dec = none → t.dec = s.dec) ∧ (c.cd = none → t.cd = s.cd) ∧
    t.pending = s.pending ∧ t.cycle = s.cycle + 1 ∧ t.reading = s.reading

/-- R128, and the frame of every operation: an operation changes the registers of its own instance only, so that an RD
register is written by its instance's own operations and reset alone; an accessor read changes no register; and no
operation changes what is presented next or the cycle index. -/
def Obligations.OperationsChangeOnlyTheirInstance : Prop :=
  ∀ (i : Instr) (s : State), ∃ t, exec i s = .next t ∧
    (target i ≠ some .enc → t.enc = s.enc) ∧
    (target i ≠ some .dec → t.dec = s.dec) ∧
    (target i ≠ some .cd → t.cd = s.cd) ∧
    t.pending = s.pending ∧ t.cycle = s.cycle ∧
    ((∀ a, i ≠ .disp a) → t.reading = s.reading)

/-- Operations of different instances in one cycle do not interact: their order is not observable (R18, R155). Where
`ENC.BADK` or `DEC.INV` is among them, the equality of the two outcomes rests on a draw being a function of its own
instance's counter and operands, which is the model's choice (log entry 1). -/
def Obligations.InstancesCommute : Prop :=
  ∀ (i j : Instr) (s : State) (a b : Inst), target i = some a → target j = some b → a ≠ b →
    execAll [i, j] s = execAll [j, i] s

/-- An instance's next registers depend on its own registers and its input alone: on no register of another instance, nor
on anything else in the state (R18, R131, R145). For `ENC.BADK` and `DEC.INV` the spec leaves the drawn registers open
(R47, R99, R110); that they too are equal in both states is the model's choice of a draw as a function of its own
instance's counter and operands (log entry 1). -/
def Obligations.InstanceDependsOnItselfAlone : Prop :=
  ∀ (i : Instr) (s₁ s₂ t₁ t₂ : State), exec i s₁ = .next t₁ → exec i s₂ = .next t₂ →
    (target i = some .enc → s₁.enc = s₂.enc → t₁.enc = t₂.enc) ∧
    (target i = some .dec → s₁.dec = s₂.dec → t₁.dec = t₂.dec) ∧
    (target i = some .cd → s₁.cd = s₂.cd → t₁.cd = t₂.cd)

/-! ## Invariants and the loopback -/

/-- Every step keeps the invariant of the registers: an encoder that was not misused holds reset values or a symbol of
the code with the RD after it, the decoder never shows both error flags and shows a legal value unless it shows
`invalid`, and an unprimed comma detector shows nothing (R36, R88, R114, R139, R155). -/
def Obligations.StepKeepsInvariant : Prop :=
  ∀ s t : State, s.Inv → step s = .next t → t.Inv

/-- The model's reset state (log entry 8) meets the invariant. -/
def Obligations.ResetMeetsInvariant : Prop := State.reset.Inv

/-- The loopback's round trip (R118, which the spec marks as derived): after a joint reset from any state, with the
decoder wired to the encoder, every legal input is shown by the decoder two cycles later, without either error flag,
whatever was presented before and is presented in the cycle between, and whatever the comma detector is given. -/
def Obligations.LoopbackRoundTrip : Prop :=
  ∀ (s : State) (w₀ : EncWord) (sy₀ r₀ : Sym) (ws : List (EncWord × Option LinePins))
    (x y : EncWord × Option LinePins), (∀ w ∈ ws ++ [x], legalWord w.1 = true) →
    ∃ t, stepN (ws.length + 3)
        (s.presentAll (jointReset w₀ sy₀ r₀ :: (ws ++ [x, y]).map (fun w => loopback w.1 w.2))) = .next t ∧
      t.ports.decD = encWordByte x.1 ∧ t.ports.decK = encWordK x.1 ∧
      t.ports.decInvalid = false ∧ t.ports.decDispErr = false

/-- The loopback's skew (R177, which the spec marks as derived): in the first cycle after a joint reset the decoder shows its
reset values and `enc.sym` is 0; in the second it shows `invalid` = 1 for that 0, and its RD is still -1. -/
def Obligations.LoopbackSkew : Prop :=
  ∀ (s : State) (w₀ w₁ : EncWord) (sy₀ r₀ : Sym) (c : Option LinePins),
    ∃ t₁ t₂, step (s.presentAll [jointReset w₀ sy₀ r₀, loopback w₁ c]) = .next t₁ ∧ step t₁ = .next t₂ ∧
      t₁.ports.encSym = 0#10 ∧ t₁.ports.decD = 0x00#8 ∧ t₁.ports.decK = false ∧
      t₁.ports.decInvalid = false ∧ t₁.ports.decDispErr = false ∧ t₁.ports.decDisp = 0#1 ∧
      t₂.ports.decInvalid = true ∧ t₂.ports.decDispErr = false ∧ t₂.ports.decDisp = 0#1

/-! ## Runs -/

/-- A run and its observation (R184, in the model's form of log entries 3 to 5): the core never halts, so every number of
cycles can be run from every state, each advancing the cycle index by one; the observation has one entry a cycle, which is
what the ports show in it; and an accessor read, which is no cycle, changes no observation. -/
def Obligations.ObservationIsPortsOfEachCycle : Prop :=
  (∀ (n : Nat) (s : State), ∃ t, runCycles n s = .next t ∧ t.cycle = s.cycle + n) ∧
  (∀ (n : Nat) (s : State), (observe n s).length = n) ∧
  (∀ (n k : Nat) (s t : State), k < n → runCycles k s = .next t → (observe n s)[k]? = some t.ports) ∧
  ∀ (n : Nat) (s : State) (a : Accessor), observe n (s.present (.read a)) = observe n s
end

