-- ==== Sys2Proof/Laws/State.lean ====
section
/-! SUPPORT. What each operation on State leaves in each field, true by unfolding once: no later proof opens a record
update. -/

namespace Sys2Proof.Machine

variable (s : State)

/-! ### latchEnc -/

@[simp] theorem State.latchEnc_enc_rd (q : Sym) (rd : RD) : (s.latchEnc q rd).enc.rd = rd := rfl
@[simp] theorem State.latchEnc_enc_q (q : Sym) (rd : RD) : (s.latchEnc q rd).enc.q = q := rfl
@[simp] theorem State.latchEnc_enc_misuse (q : Sym) (rd : RD) : (s.latchEnc q rd).enc.misuse = s.enc.misuse := rfl
@[simp] theorem State.latchEnc_enc_draws (q : Sym) (rd : RD) : (s.latchEnc q rd).enc.draws = s.enc.draws := rfl
@[simp] theorem State.latchEnc_dec (q : Sym) (rd : RD) : (s.latchEnc q rd).dec = s.dec := rfl
@[simp] theorem State.latchEnc_cd (q : Sym) (rd : RD) : (s.latchEnc q rd).cd = s.cd := rfl
@[simp] theorem State.latchEnc_pending (q : Sym) (rd : RD) : (s.latchEnc q rd).pending = s.pending := rfl
@[simp] theorem State.latchEnc_cycle (q : Sym) (rd : RD) : (s.latchEnc q rd).cycle = s.cycle := rfl
@[simp] theorem State.latchEnc_reading (q : Sym) (rd : RD) : (s.latchEnc q rd).reading = s.reading := rfl

/-! ### drawEnc -/

@[simp] theorem State.drawEnc_enc_misuse (d : Byte) : (s.drawEnc d).enc.misuse = true := rfl
@[simp] theorem State.drawEnc_enc_draws (d : Byte) : (s.drawEnc d).enc.draws = s.enc.draws + 1 := rfl
@[simp] theorem State.drawEnc_dec (d : Byte) : (s.drawEnc d).dec = s.dec := rfl
@[simp] theorem State.drawEnc_cd (d : Byte) : (s.drawEnc d).cd = s.cd := rfl
@[simp] theorem State.drawEnc_pending (d : Byte) : (s.drawEnc d).pending = s.pending := rfl
@[simp] theorem State.drawEnc_cycle (d : Byte) : (s.drawEnc d).cycle = s.cycle := rfl
@[simp] theorem State.drawEnc_reading (d : Byte) : (s.drawEnc d).reading = s.reading := rfl

/-! ### latchDec -/

@[simp] theorem State.latchDec_enc (sy : Sym) (v : Byte) (k : Bool) : (s.latchDec sy v k).enc = s.enc := rfl
@[simp] theorem State.latchDec_dec_rd (sy : Sym) (v : Byte) (k : Bool) : (s.latchDec sy v k).dec.rd = decNextRd s.dec.rd sy := rfl
@[simp] theorem State.latchDec_dec_d (sy : Sym) (v : Byte) (k : Bool) : (s.latchDec sy v k).dec.d = v := rfl
@[simp] theorem State.latchDec_dec_k (sy : Sym) (v : Byte) (k : Bool) : (s.latchDec sy v k).dec.k = k := rfl
@[simp] theorem State.latchDec_dec_inv (sy : Sym) (v : Byte) (k : Bool) : (s.latchDec sy v k).dec.inv = false := rfl
@[simp] theorem State.latchDec_dec_derr (sy : Sym) (v : Byte) (k : Bool) : (s.latchDec sy v k).dec.derr = dispViolation sy s.dec.rd := rfl
@[simp] theorem State.latchDec_dec_draws (sy : Sym) (v : Byte) (k : Bool) : (s.latchDec sy v k).dec.draws = s.dec.draws := rfl
@[simp] theorem State.latchDec_cd (sy : Sym) (v : Byte) (k : Bool) : (s.latchDec sy v k).cd = s.cd := rfl
@[simp] theorem State.latchDec_pending (sy : Sym) (v : Byte) (k : Bool) : (s.latchDec sy v k).pending = s.pending := rfl
@[simp] theorem State.latchDec_cycle (sy : Sym) (v : Byte) (k : Bool) : (s.latchDec sy v k).cycle = s.cycle := rfl
@[simp] theorem State.latchDec_reading (sy : Sym) (v : Byte) (k : Bool) : (s.latchDec sy v k).reading = s.reading := rfl

/-! ### drawDec -/

@[simp] theorem State.drawDec_enc (sy : Sym) : (s.drawDec sy).enc = s.enc := rfl
@[simp] theorem State.drawDec_dec_rd (sy : Sym) : (s.drawDec sy).dec.rd = decNextRd s.dec.rd sy := rfl
@[simp] theorem State.drawDec_dec_inv (sy : Sym) : (s.drawDec sy).dec.inv = true := rfl
@[simp] theorem State.drawDec_dec_derr (sy : Sym) : (s.drawDec sy).dec.derr = false := rfl
@[simp] theorem State.drawDec_dec_draws (sy : Sym) : (s.drawDec sy).dec.draws = s.dec.draws + 1 := rfl
@[simp] theorem State.drawDec_cd (sy : Sym) : (s.drawDec sy).cd = s.cd := rfl
@[simp] theorem State.drawDec_pending (sy : Sym) : (s.drawDec sy).pending = s.pending := rfl
@[simp] theorem State.drawDec_cycle (sy : Sym) : (s.drawDec sy).cycle = s.cycle := rfl
@[simp] theorem State.drawDec_reading (sy : Sym) : (s.drawDec sy).reading = s.reading := rfl

/-! ### latchCd -/

@[simp] theorem State.latchCd_enc (w : Sym) : (s.latchCd w).enc = s.enc := rfl
@[simp] theorem State.latchCd_dec (w : Sym) : (s.latchCd w).dec = s.dec := rfl
@[simp] theorem State.latchCd_cd_prev (w : Sym) : (s.latchCd w).cd.prev = w := rfl
@[simp] theorem State.latchCd_cd_primed (w : Sym) : (s.latchCd w).cd.primed = true := rfl
@[simp] theorem State.latchCd_cd_pos (w : Sym) : (s.latchCd w).cd.pos = commaFlags s.cd w := rfl
@[simp] theorem State.latchCd_pending (w : Sym) : (s.latchCd w).pending = s.pending := rfl
@[simp] theorem State.latchCd_cycle (w : Sym) : (s.latchCd w).cycle = s.cycle := rfl
@[simp] theorem State.latchCd_reading (w : Sym) : (s.latchCd w).reading = s.reading := rfl

/-! ### resetEnc -/

@[simp] theorem State.resetEnc_enc_rd : (s.resetEnc).enc.rd = .neg := rfl
@[simp] theorem State.resetEnc_enc_q : (s.resetEnc).enc.q = 0#10 := rfl
@[simp] theorem State.resetEnc_enc_misuse : (s.resetEnc).enc.misuse = s.enc.misuse := rfl
@[simp] theorem State.resetEnc_enc_draws : (s.resetEnc).enc.draws = s.enc.draws := rfl
@[simp] theorem State.resetEnc_dec : (s.resetEnc).dec = s.dec := rfl
@[simp] theorem State.resetEnc_cd : (s.resetEnc).cd = s.cd := rfl
@[simp] theorem State.resetEnc_pending : (s.resetEnc).pending = s.pending := rfl
@[simp] theorem State.resetEnc_cycle : (s.resetEnc).cycle = s.cycle := rfl
@[simp] theorem State.resetEnc_reading : (s.resetEnc).reading = s.reading := rfl

/-! ### resetDec -/

@[simp] theorem State.resetDec_enc : (s.resetDec).enc = s.enc := rfl
@[simp] theorem State.resetDec_dec_rd : (s.resetDec).dec.rd = .neg := rfl
@[simp] theorem State.resetDec_dec_d : (s.resetDec).dec.d = 0#8 := rfl
@[simp] theorem State.resetDec_dec_k : (s.resetDec).dec.k = false := rfl
@[simp] theorem State.resetDec_dec_inv : (s.resetDec).dec.inv = false := rfl
@[simp] theorem State.resetDec_dec_derr : (s.resetDec).dec.derr = false := rfl
@[simp] theorem State.resetDec_dec_draws : (s.resetDec).dec.draws = s.dec.draws := rfl
@[simp] theorem State.resetDec_cd : (s.resetDec).cd = s.cd := rfl
@[simp] theorem State.resetDec_pending : (s.resetDec).pending = s.pending := rfl
@[simp] theorem State.resetDec_cycle : (s.resetDec).cycle = s.cycle := rfl
@[simp] theorem State.resetDec_reading : (s.resetDec).reading = s.reading := rfl

/-! ### resetCd -/

@[simp] theorem State.resetCd_enc : (s.resetCd).enc = s.enc := rfl
@[simp] theorem State.resetCd_dec : (s.resetCd).dec = s.dec := rfl
@[simp] theorem State.resetCd_cd_prev : (s.resetCd).cd.prev = 0#10 := rfl
@[simp] theorem State.resetCd_cd_primed : (s.resetCd).cd.primed = false := rfl
@[simp] theorem State.resetCd_cd_pos : (s.resetCd).cd.pos = 0#10 := rfl
@[simp] theorem State.resetCd_pending : (s.resetCd).pending = s.pending := rfl
@[simp] theorem State.resetCd_cycle : (s.resetCd).cycle = s.cycle := rfl
@[simp] theorem State.resetCd_reading : (s.resetCd).reading = s.reading := rfl

/-! ### readDisp -/

@[simp] theorem State.readDisp_enc (a : Accessor) : (s.readDisp a).enc = s.enc := rfl
@[simp] theorem State.readDisp_dec (a : Accessor) : (s.readDisp a).dec = s.dec := rfl
@[simp] theorem State.readDisp_cd (a : Accessor) : (s.readDisp a).cd = s.cd := rfl
@[simp] theorem State.readDisp_pending (a : Accessor) : (s.readDisp a).pending = s.pending := rfl
@[simp] theorem State.readDisp_cycle (a : Accessor) : (s.readDisp a).cycle = s.cycle := rfl
@[simp] theorem State.readDisp_ports (a : Accessor) : (s.readDisp a).ports = s.ports := rfl
@[simp] theorem State.readDisp_reading (a : Accessor) : (s.readDisp a).reading = some (a, s.dispBit a) := rfl

/-! ### present -/

@[simp] theorem State.present_enc (e : Event) : (s.present e).enc = s.enc := rfl
@[simp] theorem State.present_dec (e : Event) : (s.present e).dec = s.dec := rfl
@[simp] theorem State.present_cd (e : Event) : (s.present e).cd = s.cd := rfl
@[simp] theorem State.present_pending (e : Event) : (s.present e).pending = e :: s.pending := rfl
@[simp] theorem State.present_cycle (e : Event) : (s.present e).cycle = s.cycle := rfl
@[simp] theorem State.present_reading (e : Event) : (s.present e).reading = s.reading := rfl

/-! ### presentAll -/

@[simp] theorem State.presentAll_enc (es : List Event) : (s.presentAll es).enc = s.enc := rfl
@[simp] theorem State.presentAll_dec (es : List Event) : (s.presentAll es).dec = s.dec := rfl
@[simp] theorem State.presentAll_cd (es : List Event) : (s.presentAll es).cd = s.cd := rfl
@[simp] theorem State.presentAll_pending (es : List Event) : (s.presentAll es).pending = es ++ s.pending := rfl
@[simp] theorem State.presentAll_cycle (es : List Event) : (s.presentAll es).cycle = s.cycle := rfl
@[simp] theorem State.presentAll_reading (es : List Event) : (s.presentAll es).reading = s.reading := rfl

/-! ### Accessor bits -/

@[simp] theorem State.dispBit_enc : s.dispBit .enc = s.enc.rd.toBit := rfl
@[simp] theorem State.dispBit_dec : s.dispBit .dec = s.dec.rd.toBit := rfl

@[simp] theorem RD.ofBit_toBit (r : RD) : RD.ofBit r.toBit = r := by cases r <;> rfl
@[simp] theorem RD.toBit_ofBit (b : BitVec 1) : (RD.ofBit b).toBit = b := by revert b; decide

end Sys2Proof.Machine
end

