-- ==== Sys2Proof/Laws/Table.lean ====
section
/-! SUPPORT. What the symbol-table functions say, once each: membership in the legal inputs, in an `EncSet` and in V,
what `Dec` answers, the bits of a comma-flag vector; and a decoder that works on sub-blocks, equal to `Dec`. -/

namespace Sys2Proof.Machine

/-! ## Legal inputs -/

theorem inKset_iff (d : Byte) : inKset d = true ↔ d ∈ kset := by simp [inKset]

theorem legal_data (d : Byte) : legal d false = true := rfl

theorem legal_control (d : Byte) : legal d true = inKset d := rfl

/-- The list of legal inputs holds exactly the pairs `legal` admits (R81). -/
theorem mem_legalInputs (p : Byte × Bool) : p ∈ legalInputs ↔ legal p.1 p.2 = true := by
  obtain ⟨v, k⟩ := p
  cases k with
  | true => simp [legalInputs, legal, inKset_iff]
  | false =>
    simp only [legalInputs, legal, List.mem_append, List.mem_map, List.mem_range, Prod.mk.injEq, Bool.not_false,
      Bool.true_or, iff_true]
    exact .inl ⟨v.toNat, v.isLt, by simp⟩

/-! ## EncSet and V -/

/-- `expected(s, rd)` says s is `Enc` of a legal input at rd (R86, R91). -/
theorem expected_iff (s : Sym) (rd : RD) :
    expected s rd = true ↔ ∃ v k, legal v k = true ∧ (tableEnc v k rd).1 = s := by
  simp only [expected, encSet, List.contains_iff_mem, List.mem_map, mem_legalInputs, Prod.exists]

/-- V holds the encodings of the legal inputs at either RD (R88). -/
theorem validSym_iff (s : Sym) :
    validSym s = true ↔ ∃ v k rd, legal v k = true ∧ (tableEnc v k rd).1 = s := by
  simp only [validSym, Bool.or_eq_true, expected_iff]
  constructor
  · rintro (⟨v, k, h⟩ | ⟨v, k, h⟩)
    · exact ⟨v, k, .neg, h⟩
    · exact ⟨v, k, .pos, h⟩
  · rintro ⟨v, k, rd, h⟩
    cases rd with
    | neg => exact .inl ⟨v, k, h⟩
    | pos => exact .inr ⟨v, k, h⟩

theorem isEncodingOf_iff (s : Sym) (p : Byte × Bool) :
    isEncodingOf s p = true ↔ ∃ rd, (tableEnc p.1 p.2 rd).1 = s := by
  simp only [isEncodingOf, Bool.or_eq_true, beq_iff_eq]
  constructor
  · rintro (h | h)
    · exact ⟨.neg, h⟩
    · exact ⟨.pos, h⟩
  · rintro ⟨rd, h⟩
    cases rd with
    | neg => exact .inl h
    | pos => exact .inr h

/-- What `Dec` answers is a legal input that s encodes. -/
theorem tableDec_some {s : Sym} {p : Byte × Bool} (h : tableDec s = some p) :
    legal p.1 p.2 = true ∧ ∃ rd, (tableEnc p.1 p.2 rd).1 = s :=
  ⟨(mem_legalInputs p).1 (List.mem_of_find?_eq_some h), (isEncodingOf_iff s p).1 (List.find?_some h)⟩

/-- `Dec` is defined exactly on V (R90). -/
theorem tableDec_isSome (s : Sym) : (tableDec s).isSome = validSym s := by
  rw [Bool.eq_iff_iff, validSym_iff, tableDec, List.find?_isSome]
  constructor
  · rintro ⟨p, hp, h⟩
    obtain ⟨rd, h⟩ := (isEncodingOf_iff s p).1 h
    exact ⟨p.1, p.2, rd, (mem_legalInputs p).1 hp, h⟩
  · rintro ⟨v, k, rd, hl, h⟩
    exact ⟨(v, k), (mem_legalInputs _).2 hl, (isEncodingOf_iff s _).2 ⟨rd, h⟩⟩

theorem tableDec_none_iff (s : Sym) : tableDec s = none ↔ validSym s = false := by
  rw [← tableDec_isSome]
  cases tableDec s <;> simp

/-! ## Comma flags -/

/-- Bit i of `bitsOf f n` is `f i`. -/
@[simp] theorem getLsbD_bitsOf (f : Nat → Bool) (n k : Nat) :
    (bitsOf f n).getLsbD k = (decide (k < n) && f k) := by
  induction n with
  | zero => simp [bitsOf]
  | succ n ih =>
    rw [bitsOf, BitVec.getLsbD_cons, ih]
    by_cases h : k = n
    · subst h
      simp
    · rw [if_neg h]
      congr 1
      exact decide_eq_decide.2 (by omega)

/-- Bit k of the comma flags says window k is a comma pattern (R138). -/
theorem getLsbD_commaMatch (p c : Sym) {k : Nat} (h : k < 10) :
    (commaMatch p c).getLsbD k = isComma (window p c k) := by
  rw [commaMatch, getLsbD_bitsOf]
  simp [h]

/-- Window k as a number: the low 10 - k bits of the first word above the high k bits of the second (R134). -/
theorem toNat_window (p c : Sym) {k : Nat} (h : k < 10) :
    (window p c k).toNat = p.toNat % 2 ^ (10 - k) * 2 ^ k + c.toNat / 2 ^ (10 - k) := by
  have hp := p.isLt
  have hc := c.isLt
  have e : (p ++ c).toNat = p.toNat * 1024 + c.toNat := by
    rw [BitVec.toNat_append, Nat.shiftLeft_eq, Nat.mul_comm, ← Nat.two_pow_add_eq_or_of_lt hc]
  rw [window, BitVec.toNat_setWidth, BitVec.toNat_ushiftRight, e, Nat.shiftRight_eq_div_pow]
  interval_cases k <;> simp only [Nat.reduceSub, Nat.reducePow] <;> omega

theorem anyComma_iff (pos : BitVec 10) : anyComma pos = true ↔ ∃ k, k < 10 ∧ pos.getLsbD k = true := by
  simp [anyComma]

/-! ## A decoder on sub-blocks

`Dec` is a search over the 268 legal inputs; this one inverts the two sub-block tables and checks its answer by
encoding it again, which evaluates much faster. -/

/-- The first index below 32 whose row of `T6` holds the sub-block; 28 for the control sub-block K6. -/
def invT6 (p6 : BitVec 6) : Option (BitVec 5) :=
  if p6 = k6.1 ∨ p6 = k6.2 then some 28#5
  else ((List.range 32).map (BitVec.ofNat 5)).find? (fun x => (t6 x).1 == p6 || (t6 x).2 == p6)

/-- The row holds the sub-block in either column. -/
def rowHolds {w : Nat} (p : BitVec w) (row : BitVec w × BitVec w) : Bool := row.1 == p || row.2 == p

/-- The inputs a symbol's sub-blocks leave: the x its 6-bit sub-block names, with each y whose row holds its 4-bit
sub-block. -/
def candidates (s : Sym) : List (Byte × Bool) :=
  match invT6 (symSub6 s) with
  | none => []
  | some x =>
    let ys := (List.range 8).map (BitVec.ofNat 3)
    ((ys.filter (fun y => rowHolds (symSub4 s) (t4d y) || (y == 7#3 && rowHolds (symSub4 s) a7))).map
        (fun y => (codeByte x y, false))) ++
      ((ys.filter (fun y => rowHolds (symSub4 s) (t4k y))).map (fun y => (codeByte x y, true)))

/-- Decoding by sub-blocks. -/
def fastDec (s : Sym) : Option (Byte × Bool) :=
  (candidates s).find? (fun p => legal p.1 p.2 && isEncodingOf s p)

/-- What it answers is a legal input that s encodes. -/
theorem fastDec_some {s : Sym} {p : Byte × Bool} (h : fastDec s = some p) :
    legal p.1 p.2 = true ∧ ∃ rd, (tableEnc p.1 p.2 rd).1 = s := by
  have hp := List.find?_some h
  rw [Bool.and_eq_true] at hp
  exact ⟨hp.1, (isEncodingOf_iff s p).1 hp.2⟩

end Sys2Proof.Machine
end

