-- ==== Sys2Proof/Laws/Ops.lean ====
section
/-! SUPPORT. Everything the shared operations, `exec`, `fetch` and `step` can do, said once each. -/

namespace Sys2Proof.Machine

/-! ## Going on from an outcome -/

@[simp] theorem andThen_next (s : State) (f : State → Result) : andThen (.next s) f = f s := rfl

theorem andThen_eq_next {r : Result} {f : State → Result} {t : State} :
    andThen r f = .next t ↔ ∃ u, r = .next u ∧ f u = .next t := by
  cases r <;> simp [andThen]

@[simp] theorem execAll_nil (s : State) : execAll [] s = .next s := rfl

@[simp] theorem execAll_cons (i : Instr) (is : List Instr) (s : State) :
    execAll (i :: is) s = andThen (exec i s) (execAll is) := rfl

@[simp] theorem execAll_singleton (i : Instr) (s : State) : execAll [i] s = exec i s := by
  rw [execAll_cons]
  cases exec i s <;> rfl

theorem execAll_append (is js : List Instr) (s : State) :
    execAll (is ++ js) s = andThen (execAll is s) (execAll js) := by
  induction is generalizing s with
  | nil => rfl
  | cons i is ih =>
    rw [List.cons_append, execAll_cons, execAll_cons]
    cases exec i s with
    | next t => exact ih t
    | fault r => rfl
    | refused r => rfl

/-! ## The operations -/

theorem encodeLegal_eq (v : Byte) (k : Bool) (s : State) :
    encodeLegal v k s = .next (s.latchEnc (tableEnc v k s.enc.rd).1 (tableEnc v k s.enc.rd).2) := rfl

theorem encoderCycle_legal {v : Byte} {k : Bool} (h : legal v k = true) (s : State) :
    encoderCycle v k s = .next (s.latchEnc (tableEnc v k s.enc.rd).1 (tableEnc v k s.enc.rd).2) := by
  rw [encoderCycle, if_pos h, encodeLegal_eq]

theorem encoderCycle_unsupported {v : Byte} {k : Bool} (h : legal v k = false) (s : State) :
    encoderCycle v k s = .next (s.drawEnc v) := by rw [encoderCycle, if_neg (by simp [h])]

theorem decoderCycle_some {sy : Sym} {p : Byte × Bool} (h : tableDec sy = some p) (s : State) :
    decoderCycle sy s = .next (s.latchDec sy p.1 p.2) := by rw [decoderCycle, h]

theorem decoderCycle_none {sy : Sym} (h : tableDec sy = none) (s : State) :
    decoderCycle sy s = .next (s.drawDec sy) := by rw [decoderCycle, h]

/-- The next states an operation can give. -/
inductive NextOf (s : State) : State → Prop where
  | encoded (v : Byte) (k : Bool) (h : legal v k = true) :
      NextOf s (s.latchEnc (tableEnc v k s.enc.rd).1 (tableEnc v k s.enc.rd).2)
  | misused (d : Byte) (h : inKset d = false) : NextOf s (s.drawEnc d)
  | decoded (sy : Sym) (v : Byte) (k : Bool) (h : tableDec sy = some (v, k)) : NextOf s (s.latchDec sy v k)
  | invalid (sy : Sym) (h : tableDec sy = none) : NextOf s (s.drawDec sy)
  | searched (w : Sym) : NextOf s (s.latchCd w)
  | resetEnc : NextOf s s.resetEnc
  | resetDec : NextOf s s.resetDec
  | resetCd : NextOf s s.resetCd
  | read (a : Accessor) : NextOf s (s.readDisp a)

theorem encodeLegal_nextOf {v : Byte} {k : Bool} (h : legal v k = true) (s : State) :
    ∃ t, encodeLegal v k s = .next t ∧ NextOf s t := ⟨_, rfl, .encoded v k h⟩

theorem decoderCycle_nextOf (sy : Sym) (s : State) : ∃ t, decoderCycle sy s = .next t ∧ NextOf s t := by
  cases h : tableDec sy with
  | some p => exact ⟨_, decoderCycle_some h s, .decoded sy p.1 p.2 h⟩
  | none => exact ⟨_, decoderCycle_none h s, .invalid sy h⟩

/-- Every operation answers a next state, and one of these (R154, R165). -/
theorem exec_nextOf (i : Instr) (s : State) : ∃ t, exec i s = .next t ∧ NextOf s t := by
  cases i with
  | encD d => exact encodeLegal_nextOf (legal_data d) s
  | encK28_0 => exact encodeLegal_nextOf (by decide) s
  | encK28_1 => exact encodeLegal_nextOf (by decide) s
  | encK28_2 => exact encodeLegal_nextOf (by decide) s
  | encK28_3 => exact encodeLegal_nextOf (by decide) s
  | encK28_4 => exact encodeLegal_nextOf (by decide) s
  | encK28_5 => exact encodeLegal_nextOf (by decide) s
  | encK28_6 => exact encodeLegal_nextOf (by decide) s
  | encK28_7 => exact encodeLegal_nextOf (by decide) s
  | encK23_7 => exact encodeLegal_nextOf (by decide) s
  | encK27_7 => exact encodeLegal_nextOf (by decide) s
  | encK29_7 => exact encodeLegal_nextOf (by decide) s
  | encK30_7 => exact encodeLegal_nextOf (by decide) s
  | encBadk d =>
    cases h : inKset d with
    | true => exact ⟨_, encoderCycle_legal (k := true) h s, .encoded d true h⟩
    | false => exact ⟨_, encoderCycle_unsupported (k := true) h s, .misused d h⟩
  | dec sy => exact decoderCycle_nextOf sy s
  | decInv sy => exact decoderCycle_nextOf sy s
  | cdet w => exact ⟨_, rfl, .searched w⟩
  | rst n =>
    cases n with
    | enc => exact ⟨_, rfl, .resetEnc⟩
    | dec => exact ⟨_, rfl, .resetDec⟩
    | cd => exact ⟨_, rfl, .resetCd⟩
  | disp a => exact ⟨_, rfl, .read a⟩

/-- The inversion of `exec`: what its next state can be. -/
theorem exec_cases {i : Instr} {s t : State} (h : exec i s = .next t) : NextOf s t := by
  obtain ⟨u, hu, hn⟩ := exec_nextOf i s
  rw [h] at hu
  cases hu
  exact hn

/-- What `execAll` answers is reached by next states of operations: a relation that holds of a state and itself and
that every operation keeps holds of the outcome. -/
theorem execAll_induct {R : State → Prop} {is : List Instr} {s t : State} (h : execAll is s = .next t) (h0 : R s)
    (hs : ∀ i u v, R u → exec i u = .next v → R v) : R t := by
  induction is generalizing s with
  | nil => cases h; exact h0
  | cons i is ih =>
    obtain ⟨u, hu, ht⟩ := andThen_eq_next.1 h
    exact ih ht (hs i s u h0 hu)

theorem execAll_next (is : List Instr) (s : State) : ∃ t, execAll is s = .next t := by
  induction is generalizing s with
  | nil => exact ⟨s, rfl⟩
  | cons i is ih =>
    obtain ⟨u, hu, -⟩ := exec_nextOf i s
    obtain ⟨t, ht⟩ := ih u
    exact ⟨t, andThen_eq_next.2 ⟨u, hu, ht⟩⟩

/-! ## Fetch and step -/

theorem step_eq (s : State) : step s = execAll (fetch s).1 (fetch s).2 := rfl

@[simp] theorem fetch_cycle (s : State) (c : Cycle) :
    fetch (s.present (.cycle c)) = (c.ops s, { s with cycle := s.cycle + 1 }) := by
  obtain ⟨e, d, r⟩ := c
  rcases e with _ | _ | _ <;> rcases d with _ | ⟨_, _ | _⟩ | _ <;> rcases r with _ | ⟨_, _ | _⟩ | _ <;> rfl

@[simp] theorem fetch_read (s : State) (a : Accessor) : fetch (s.present (.read a)) = ([.disp a], s) := rfl

theorem fetch_empty {s : State} (h : s.pending = []) :
    fetch s = (Cycle.undriven.ops s, { s with cycle := s.cycle + 1 }) := by rw [fetch, h]

/-- Fetching changes only the environment's side of the state. -/
theorem fetch_registers (s : State) :
    (fetch s).2.enc = s.enc ∧ (fetch s).2.dec = s.dec ∧ (fetch s).2.cd = s.cd ∧ (fetch s).2.reading = s.reading := by
  rw [fetch]
  split <;> exact ⟨rfl, rfl, rfl, rfl⟩

/-- The operations of a cycle belong to different instances: at most one to each, in this order. -/
theorem Cycle.ops_eq (c : Cycle) (s : State) :
    c.ops s = (c.enc.map (fun p => p.op s)).toList ++ (c.dec.map (fun p => p.decOp s)).toList
      ++ (c.cd.map (fun p => p.cdOp s)).toList := rfl

@[simp] theorem stepN_zero (s : State) : stepN 0 s = .next s := rfl

theorem stepN_succ (n : Nat) (s : State) : stepN (n + 1) s = andThen (step s) (stepN n) := rfl

theorem stepN_of_next (n : Nat) {s t : State} (h : step s = .next t) : stepN (n + 1) s = stepN n t := by
  rw [stepN_succ, h, andThen_next]

theorem stepN_of_fault (n : Nat) {s : State} {r : Fault} (h : step s = .fault r) : stepN (n + 1) s = .fault r := by
  rw [stepN_succ, h]
  rfl

theorem stepN_of_refused (n : Nat) {s : State} {r : Refusal} (h : step s = .refused r) :
    stepN (n + 1) s = .refused r := by
  rw [stepN_succ, h]
  rfl

@[simp] theorem leadingReads_nil : leadingReads [] = 0 := rfl

@[simp] theorem leadingReads_cycle (c : Cycle) (es : List Event) : leadingReads (.cycle c :: es) = 0 := rfl

@[simp] theorem leadingReads_read (a : Accessor) (es : List Event) :
    leadingReads (.read a :: es) = leadingReads es + 1 := rfl

@[simp] theorem step_read (s : State) (a : Accessor) : step (s.present (.read a)) = .next (s.readDisp a) := rfl

/-- A cycle with an accessor read presented before it is the cycle from the state after the read. -/
theorem runCycle_read (s : State) (a : Accessor) : runCycle (s.present (.read a)) = runCycle (s.readDisp a) :=
  stepN_of_next _ (step_read s a)

/-- A cycle with no accessor read before it is one step. -/
theorem runCycle_of_no_read {s : State} (h : leadingReads s.pending = 0) : runCycle s = step s := by
  rw [runCycle, h, stepN_succ]
  cases step s <;> rfl

@[simp] theorem runCycles_zero (s : State) : runCycles 0 s = .next s := rfl

theorem runCycles_succ (n : Nat) (s : State) : runCycles (n + 1) s = andThen (runCycle s) (runCycles n) := rfl

@[simp] theorem observe_zero (s : State) : observe 0 s = [] := rfl

theorem observe_of_next (n : Nat) {s t : State} (h : runCycle s = .next t) :
    observe (n + 1) s = s.ports :: observe n t := by rw [observe, h]

/-- The host's run of a machine is any function that starts and goes on as it does. -/
theorem run_eq_of_step (M : Host.Core) (f : Nat → M.State → Host.Outcome M.State M.Fault M.Refusal)
    (h0 : ∀ s, f 0 s = .next s)
    (h1 : ∀ n s t, M.step s = .next t → f (n + 1) s = f n t)
    (h2 : ∀ n s r, M.step s = .fault r → f (n + 1) s = .fault r)
    (h3 : ∀ n s r, M.step s = .refused r → f (n + 1) s = .refused r) (n : Nat) (s : M.State) :
    M.run n s = f n s := by
  induction n generalizing s with
  | zero => exact (h0 s).symm
  | succ n ih =>
    unfold Host.Core.run
    split
    · rename_i t h; rw [ih, h1 n s t h]
    · rename_i r h; rw [h2 n s r h]
    · rename_i r h; rw [h3 n s r h]

/-- The host's run of the machine is `stepN`. -/
theorem core_run_eq (n : Nat) (s : State) : Host.Core.run Sys2Proof.core n s = stepN n s :=
  run_eq_of_step Sys2Proof.core stepN (fun _ => rfl) (fun n _ _ h => stepN_of_next n h)
    (fun n _ _ h => stepN_of_fault n h) (fun n _ _ h => stepN_of_refused n h) n s

end Sys2Proof.Machine
end

