-- ==== Sys2Proof/Laws/PerInstr.lean ====
section
/-! SUPPORT. Statements about every operation as syntax, one lemma per constructor. -/

/-- The word that presents an operation fits in the port it is presented on (30_encoding R68). -/
def Sys2Proof.Laws.EncodedWidth.Statement (i : Sys2Proof.Instr) : Prop :=
  (Sys2Proof.encode i).2 < 2 ^ (Sys2Proof.encode i).1.width

namespace Sys2Proof.Laws.EncodedWidth

theorem encD (d : Byte) : Statement (.encD d) := (Machine.encWord false d).isLt
theorem encK28_0 : Statement .encK28_0 := by unfold Statement; decide
theorem encK28_1 : Statement .encK28_1 := by unfold Statement; decide
theorem encK28_2 : Statement .encK28_2 := by unfold Statement; decide
theorem encK28_3 : Statement .encK28_3 := by unfold Statement; decide
theorem encK28_4 : Statement .encK28_4 := by unfold Statement; decide
theorem encK28_5 : Statement .encK28_5 := by unfold Statement; decide
theorem encK28_6 : Statement .encK28_6 := by unfold Statement; decide
theorem encK28_7 : Statement .encK28_7 := by unfold Statement; decide
theorem encK23_7 : Statement .encK23_7 := by unfold Statement; decide
theorem encK27_7 : Statement .encK27_7 := by unfold Statement; decide
theorem encK29_7 : Statement .encK29_7 := by unfold Statement; decide
theorem encK30_7 : Statement .encK30_7 := by unfold Statement; decide
theorem encBadk (d : Byte) : Statement (.encBadk d) := (Machine.encWord true d).isLt
theorem dec (s : Sym) : Statement (.dec s) := s.isLt
theorem decInv (s : Sym) : Statement (.decInv s) := s.isLt
theorem cdet (w : Sym) : Statement (.cdet w) := w.isLt
theorem rst (i : Inst) : Statement (.rst i) := by unfold Statement; cases i <;> decide
theorem disp (a : Accessor) : Statement (.disp a) := by unfold Statement; cases a <;> decide

end Sys2Proof.Laws.EncodedWidth
end

