-- ==== Sys2Proof/Laws/Select.lean ====
section
/-! SUPPORT. What the pins select and what running the selected operation is: one equation per instance, and the
decoder's two cases. -/

namespace Sys2Proof

open Machine

/-! ## Fields of an encoder word -/

@[simp] theorem encWordK_encWord (k : Bool) (d : Byte) : encWordK (encWord k d) = k := by
  revert k d
  decide +kernel

@[simp] theorem encWordByte_encWord (k : Bool) (d : Byte) : encWordByte (encWord k d) = d := by
  revert k d
  decide +kernel

@[simp] theorem encWord_fields (w : EncWord) : encWord (encWordK w) (encWordByte w) = w := by
  revert w
  decide +kernel

/-! ## Selection -/

/-- A control request outside KSET selects `ENC.BADK` (R63). -/
theorem selectControl_unsupported {d : Byte} (h : inKset d = false) : selectControl d = .encBadk d := by
  have hd : d ∉ kset := fun hm => by simp [(inKset_iff d).2 hm] at h
  simp only [kset, List.mem_cons, List.not_mem_nil, or_false, not_or] at hd
  simp only [selectControl, hd, if_false]

/-- Running the operation a control request selects is the encoder cycle with `k` = 1 (R63, R97). -/
theorem exec_selectControl (d : Byte) (s : State) : exec (selectControl d) s = encoderCycle d true s := by
  cases h : inKset d with
  | false => rw [selectControl_unsupported h]; rfl
  | true =>
    have hd := (inKset_iff d).1 h
    simp only [kset, List.mem_cons, List.not_mem_nil, or_false] at hd
    rcases hd with rfl | rfl | rfl | rfl | rfl | rfl | rfl | rfl | rfl | rfl | rfl | rfl <;> rfl

/-- Running the operation the encoder's pins select, without reset, is the encoder cycle (R63, R97). -/
theorem exec_selectEnc (w : EncWord) (s : State) :
    exec (selectEnc false w) s = encoderCycle (encWordByte w) (encWordK w) s := by
  cases h : encWordK w with
  | false => simp only [selectEnc, h, Bool.false_eq_true, if_false, if_true]; rfl
  | true => simp only [selectEnc, h, Bool.false_eq_true, Bool.true_eq_false, if_false]; exact exec_selectControl _ s

/-- Running the operation the decoder's pins select, without reset, is the decoder cycle (R64, R108). -/
theorem exec_selectDec (sy : Sym) (s : State) : exec (selectDec false sy) s = decoderCycle sy s := by
  simp only [selectDec, Bool.false_eq_true, if_false]
  split <;> rfl

theorem exec_selectCd (w : Sym) (s : State) : exec (selectCd false w) s = .next (s.latchCd w) := rfl

@[simp] theorem selectEnc_reset (w : EncWord) : selectEnc true w = .rst .enc := rfl
@[simp] theorem selectDec_reset (sy : Sym) : selectDec true sy = .rst .dec := rfl
@[simp] theorem selectCd_reset (w : Sym) : selectCd true w = .rst .cd := rfl

/-! ## Decoding -/

theorem decode_fitting {p : Port} {w : Nat} (h : w < 2 ^ p.width) : decode p w = decodeFitting p w := if_pos h

theorem decode_tooWide {p : Port} {w : Nat} (h : 2 ^ p.width ≤ w) : decode p w = .error (.tooWide p) :=
  if_neg (Nat.not_lt.2 h)

end Sys2Proof
end

