-- ==== Sys2Proof/Machine/ProgramLine.lean ====
section
/-! DEFINITION. The spec's program lines, one a clock cycle, and the cycle each presents (30_encoding R69, R70). -/

namespace Sys2Proof.Machine

/-- `Dx.y` for a data byte and `Kx.y` for a control byte (R69). -/
def codeName (v : Byte) (k : Bool) : String :=
  (if k = true then "K" else "D") ++ toString (codeX v).toNat ++ "." ++ toString (codeY v).toNat

/-- The input one part of a line gives one instance (R70). -/
inductive LineInput where
  /-- `ENC Dx.y`. -/
  | encD (x : BitVec 5) (y : BitVec 3)
  /-- `ENC Kx.y`. -/
  | encK (x : BitVec 5) (y : BitVec 3)
  /-- `ENC d=0xNN k=b`. -/
  | encRaw (d : Byte) (k : Bool)
  /-- `DEC 0b…`. -/
  | dec (s : Sym)
  /-- `DEC <- ENC`. -/
  | decFromEnc
  /-- `CDET 0b…`. -/
  | cdet (w : Sym)
deriving DecidableEq, Repr

/-- A line: a reset of the instances the program names, or the inputs of one cycle. -/
inductive Line where
  /-- `RST`. -/
  | rst (named : List Inst)
  /-- `<line> ; <line>`: inputs of the same cycle on different instances. -/
  | inputs (parts : List LineInput)
deriving DecidableEq, Repr

/-- Set in a cycle the pins that one input of a line gives. -/
def LineInput.drive (i : LineInput) (c : Cycle) : Cycle :=
  match i with
  | .encD x y => { c with enc := some (.driven false (encWord false (codeByte x y))) }
  | .encK x y => { c with enc := some (.driven false (encWord true (codeByte x y))) }
  | .encRaw d k => { c with enc := some (.driven false (encWord k d)) }
  | .dec s => { c with dec := some (.driven false (.word s)) }
  | .decFromEnc => { c with dec := some (.driven false .encOut) }
  | .cdet w => { c with cd := some (.driven false (.word w)) }

/-- Set in a cycle the `rst` pin of an instance; the data pins of that cycle do not matter (R102, R117). -/
def driveReset (n : Inst) (c : Cycle) : Cycle :=
  match n with
  | .enc => { c with enc := some (.driven true 0#9) }
  | .dec => { c with dec := some (.driven true (.word 0#10)) }
  | .cd => { c with cd := some (.driven true (.word 0#10)) }

/-- The cycle a line presents. An instance the line does not name has no defined input in it: its input is a draw (R70). -/
def Line.cycle (l : Line) : Cycle :=
  match l with
  | .rst named => named.foldr driveReset Cycle.undriven
  | .inputs parts => parts.foldr LineInput.drive Cycle.undriven

/-- A program presented from its first line on. -/
def State.presentProgram (s : State) (ls : List Line) : State :=
  { s with pending := ls.map (fun l => .cycle l.cycle) ++ s.pending }

end Sys2Proof.Machine
end

