-- ==== Sys2Proof/Tests/Slice0.lean ====
section
/-! SUPPORT. Small tests, one step each, with expected values printed in spec/ (named in the comment of each group), and a
witness for the hypotheses of each statement. -/

namespace Sys2Proof.Tests

open Sys2Proof.Machine

/-- A machine just reset but for the two running disparities. -/
def at_ (e d : RD) : State :=
  { State.reset with enc := { EncState.reset with rd := e }, dec := { DecState.reset with rd := d } }

/-- A check on the next state of an operation. -/
def after (i : Instr) (s : State) (f : State → Bool) : Bool :=
  match exec i s with
  | .next t => f t
  | .fault _ => false
  | .refused _ => false

/-- The encoder's two registers after an operation. -/
def encIs (i : Instr) (rd : RD) (q : Sym) (rd' : RD) : Bool :=
  after i (at_ rd .neg) (fun t => t.enc.q == q && t.enc.rd == rd' && t.enc.misuse == false)

/-- The decoder's registers after an operation on a symbol. -/
def decIs (sy : Sym) (rd : RD) (derr : Bool) (d : Byte) (k : Bool) (rd' : RD) : Bool :=
  after (.dec sy) (at_ .neg rd)
    (fun t => t.dec.inv == false && t.dec.derr == derr && t.dec.d == d && t.dec.k == k && t.dec.rd == rd')

/-! ## Well-formedness refuses a term for each of its checks (30_encoding R62) -/

theorem test_wf_refuses_badk_in_kset : Instr.wf (.encBadk 0xBC#8) = false := by decide
theorem test_wf_refuses_dec_of_invalid : Instr.wf (.dec 0x000#10) = false := by decide +kernel
theorem test_wf_refuses_decInv_of_valid : Instr.wf (.decInv 0x0FA#10) = false := by decide +kernel

/-! ## Decoding: words written out bit by bit (R51 `{k, HGF, EDCBA}`, R52 `abcdei fghj`, R58, the opcode table) -/

theorem test_decode_D21_5 : decode .encIn 0b0_101_10101 = .ok (.encD 0xB5#8) := by decide
theorem test_decode_K28_0 : decode .encIn 0b1_000_11100 = .ok .encK28_0 := by decide
theorem test_decode_K28_1 : decode .encIn 0b1_001_11100 = .ok .encK28_1 := by decide
theorem test_decode_K28_2 : decode .encIn 0b1_010_11100 = .ok .encK28_2 := by decide
theorem test_decode_K28_3 : decode .encIn 0b1_011_11100 = .ok .encK28_3 := by decide
theorem test_decode_K28_4 : decode .encIn 0b1_100_11100 = .ok .encK28_4 := by decide
theorem test_decode_K28_5 : decode .encIn 0b1_101_11100 = .ok .encK28_5 := by decide
theorem test_decode_K28_6 : decode .encIn 0b1_110_11100 = .ok .encK28_6 := by decide
theorem test_decode_K28_7 : decode .encIn 0b1_111_11100 = .ok .encK28_7 := by decide
theorem test_decode_K23_7 : decode .encIn 0b1_111_10111 = .ok .encK23_7 := by decide
theorem test_decode_K27_7 : decode .encIn 0b1_111_11011 = .ok .encK27_7 := by decide
theorem test_decode_K29_7 : decode .encIn 0b1_111_11101 = .ok .encK29_7 := by decide
theorem test_decode_K30_7 : decode .encIn 0b1_111_11110 = .ok .encK30_7 := by decide
theorem test_decode_K31_7 : decode .encIn 0b1_111_11111 = .ok (.encBadk 0xFF#8) := by decide
theorem test_decode_symbol : decode .decS 0b001111_1010 = .ok (.dec 0x0FA#10) := by decide +kernel
theorem test_decode_P7_for_A7 : decode .decS 0b100011_1110 = .ok (.decInv 0x23E#10) := by decide +kernel
theorem test_decode_raw_word : decode .cdW 0b101001_1111 = .ok (.cdet 0x29F#10) := by decide
theorem test_decode_rst : decode (.rst .cd) 0b1 = .ok (.rst .cd) := by decide
theorem test_decode_disp : decode (.disp .dec) 0 = .ok (.disp .dec) := by decide
theorem test_decode_refuses_tenth_bit : decode .encIn 0b1000000000 = .error (.tooWide .encIn) := by decide
theorem test_decode_refuses_rst_low : decode (.rst .enc) 0b0 = .error (.rstLow .enc) := by decide

/-! ## Table words, and the first step after reset (opcode_table.json) -/

theorem test_table_word_K28_5 : decodeTableWord 16 0x1BC = some .encK28_5 := by decide
theorem test_table_word_badk : decodeTableWord 16 0x100 = some (.encBadk 0x00#8) := by decide
theorem test_table_word_symbol : decodeTableWord 10 0x0FA = some (.dec 0x0FA#10) := by decide +kernel
theorem test_table_word_rst : decodeTableWord 8 1 = some (.rst .enc) := by decide
theorem test_first_step_runs_word :
    (match step (State.reset.withFetchWord 16 0x1BC) with
      | .next t => t.enc.q == 0x0FA#10 && t.pending == [] && t.cycle == 1
      | .fault _ => false
      | .refused _ => false) = true := by decide

/-! ## Encoder (95_test_vectors L2.2, 30_encoding R60) -/

theorem test_encD_A7 : encIs (.encD 0xF1#8) .neg 0x237#10 .pos = true := by decide
theorem test_encD_D7_0 : encIs (.encD 0x07#8) .pos 0x074#10 .neg = true := by decide
theorem test_encK28_0 : encIs .encK28_0 .pos 0x30B#10 .pos = true := by decide
theorem test_encK28_1 : encIs .encK28_1 .neg 0x0F9#10 .pos = true := by decide
theorem test_encK28_2 : encIs .encK28_2 .pos 0x30A#10 .neg = true := by decide
theorem test_encK28_3 : encIs .encK28_3 .neg 0x0F3#10 .pos = true := by decide
theorem test_encK28_4 : encIs .encK28_4 .neg 0x0F2#10 .neg = true := by decide
theorem test_encK28_5 : encIs .encK28_5 .pos 0x305#10 .neg = true := by decide
theorem test_encK28_6 : encIs .encK28_6 .neg 0x0F6#10 .pos = true := by decide
theorem test_encK28_7 : encIs .encK28_7 .pos 0x307#10 .pos = true := by decide
theorem test_encK23_7 : encIs .encK23_7 .neg 0x3A8#10 .neg = true := by decide
theorem test_encK27_7 : encIs .encK27_7 .pos 0x097#10 .pos = true := by decide
theorem test_encK29_7 : encIs .encK29_7 .neg 0x2E8#10 .neg = true := by decide
theorem test_encK30_7 : encIs .encK30_7 .pos 0x217#10 .pos = true := by decide
theorem test_encBadk_sets_misuse :
    after (.encBadk 0xBD#8) State.reset (fun t => t.enc.misuse && t.dec == State.reset.dec) = true := by decide

/-! ## Decoder (42_decoder R121, 95_test_vectors L2.3) -/

theorem test_dec_wrong_rd : decIs 0x0FA#10 .pos true 0xBC#8 true .pos = true := by decide +kernel
theorem test_dec_D0_0_own_rd : decIs 0x18B#10 .pos false 0x00#8 false .pos = true := by decide +kernel
theorem test_decInv_all_ones :
    after (.decInv 0x3FF#10) (at_ .neg .neg)
      (fun t => t.dec.inv && t.dec.derr == false && t.dec.rd == .pos) = true := by decide +kernel
theorem test_decInv_unused_control :
    after (.decInv 0x0FC#10) (at_ .neg .neg)
      (fun t => t.dec.inv && t.dec.derr == false && t.dec.rd == .pos) = true := by decide +kernel

/-! ## Comma detector (95_test_vectors L2.5; 44_comma_detector R146) -/

theorem test_cdet_misaligned :
    after (.cdet 0x155#10) { State.reset with cd := ⟨0x29F#10, true, 0#10⟩ }
      (fun t => t.cd.pos == 0b0000001000#10 && t.cd.prev == 0x155#10) = true := by decide
theorem test_cdet_straddle :
    after (.cdet 0x314#10) { State.reset with cd := ⟨0x307#10, true, 0#10⟩ }
      (fun t => t.cd.pos == 0b0000100001#10) = true := by decide

/-! ## Reset and accessors (70_reset_and_hazards R167, 43_disparity_state_machine R126, 95_test_vectors L2.4) -/

theorem test_rst_keeps_misuse :
    after (.rst .enc) { State.reset with enc := ⟨.pos, 0x0FA#10, true, 3⟩ }
      (fun t => t.enc.rd == .neg && t.enc.q == 0#10 && t.enc.misuse) = true := by decide
theorem test_rst_dec :
    after (.rst .dec) { State.reset with dec := ⟨.pos, 0xBC#8, true, false, true, 0⟩ }
      (fun t => t.ports.decDisp == 0#1 && t.decOutWord == 0#11) = true := by decide
theorem test_disp_reads_pos :
    after (.disp .dec) (at_ .neg .pos) (fun t => t.reading == some (.dec, 1#1) && t.dec.rd == .pos) = true := by decide

/-! ## Program lines (30_encoding R69, R70) -/

theorem test_line_K28_5 :
    (Line.inputs [.encK 28#5 5#3, .decFromEnc]).cycle =
      ⟨some (.driven false 0x1BC#9), some (.driven false .encOut), some .undriven⟩ := by decide
theorem test_name_K28_5 : codeName 0xBC#8 true = "K28.5" := by decide +kernel
theorem test_loopback_reads_before_the_edge :
    (match step ((at_ .neg .neg).present (loopback 0x1BC#9 none)) with
      | .next t => t.enc.q == 0x0FA#10 && t.dec.inv
      | .fault _ => false
      | .refused _ => false) = true := by decide +kernel

/-! ## Observation (70_reset_and_hazards R184) -/

theorem test_observation_skips_reads :
    (observe 2 (State.reset.presentAll [.read .enc, portEvent .encIn 0x1BC, .read .dec, .read .enc,
      portEvent (.rst .cd) 1])).map Ports.encSym = [0x000#10, 0x0FA#10] := by decide +kernel

/-! ## Witnesses: a concrete case that meets the hypotheses of each statement together -/

theorem witness_DecodeOfEncodedOperation : Instr.wf (.encBadk 0xFF#8) = true := by decide
theorem witness_EncodeOfDecodedWord : decode .encIn 0x1FE = .ok .encK30_7 := by decide
theorem witness_OnlyPortWidthWordsDecode_wide : 2 ^ Port.decS.width ≤ 1024 := by decide
theorem witness_OnlyPortWidthWordsDecode_rst :
    1 < 2 ^ (Port.rst .cd).width ∧ ∀ n, Port.rst .cd = .rst n → 1 ≠ 0 := ⟨by decide, fun _ _ => by decide⟩
theorem witness_OnlyPortWidthWordsDecode_fits : 1023 < 2 ^ Port.decS.width := by decide
theorem witness_EncoderRdFollowsDelta : legalWord 0x1BC#9 = true := by decide
theorem witness_EncodingVariantCounts : 0xFE#8 ∈ kset := by decide
theorem witness_ValidCodewordSet : validSym 0x0FA#10 = true := by decide +kernel
theorem witness_EncodingIsInjective :
    legal 0x23#8 false = true ∧ (tableEnc 0x23#8 false .neg).1 = (tableEnc 0x23#8 false .pos).1 := by decide
theorem witness_DecIsTheInverse : tableDec 0x0FA#10 = some (0xBC#8, true) ∧ tableDec 0x000#10 = none := by
  decide +kernel
theorem witness_SubBlockCodeEqualsFlatTable : legal 0xBC#8 true = true := by decide
theorem witness_NoRunOfSixEqualBits : legal 0xFC#8 true = true ∧ legal 0x07#8 false = true ∧ 14 < 15 := by decide
theorem witness_DcBalance : ∀ p ∈ [(0xBC#8, true), (0x00#8, false)], legal p.1 p.2 = true := by decide +kernel
theorem witness_EncoderCycle_data : encWordK 0x0FF#9 = false := by decide
theorem witness_EncoderCycle_control : encWordK 0x1FE#9 = true ∧ inKset (encWordByte 0x1FE#9) = true := by decide
theorem witness_EncoderCycle_unsupported :
    encWordK 0x1FF#9 = true ∧ inKset (encWordByte 0x1FF#9) = false := by decide
theorem witness_EncodeUnsupportedControl : inKset 0x00#8 = false := by decide
theorem witness_MisuseIsSticky : inKset 0xBD#8 = false := by decide
theorem witness_EncoderRunEmitsSequence :
    ∀ x ∈ [(0x3C#8, true), (0x1C#8, true)] ++ [(0x00#8, false)], legal x.1 x.2 = true := by decide +kernel
theorem witness_ResetThenSameInputsSameOutputs : ∀ w ∈ [0x1BC#9, 0x000#9], legalWord w = true := by decide
theorem witness_DecodeValidCodeword : legal 0x1C#8 true = true := by decide
theorem witness_DecoderCycle_valid : tableDec 0x305#10 = some (0xBC#8, true) := by decide +kernel
theorem witness_DecoderCycle_invalid : validSym 0x3FF#10 = false := by decide +kernel
theorem witness_DecodeInvalidCodeword : validSym 0x23E#10 = false := by decide +kernel
theorem witness_DecoderFlagsAndRd_signs :
    0 < delta 0x0FA#10 ∧ delta 0x305#10 < 0 ∧ delta 0x2AA#10 = 0 := by decide
theorem witness_DecoderTracksEncoder : legalWord 0x1BC#9 = true ∧ State.reset.dec.rd = State.reset.enc.rd := by decide
theorem witness_DecoderConvergesOnUnbalancedSymbol :
    legal 0xBC#8 true = true ∧ delta (tableEnc 0xBC#8 true .pos).1 ≠ 0 ∧ delta (tableEnc 0x1C#8 true .pos).1 = 0 := by
  decide
theorem witness_ConditionsAreRecorded_E1 :
    Instr.wf (.encBadk 0x00#8) = true ∧ condition (.encBadk 0x00#8) State.reset = some .unsupportedControl := by decide
theorem witness_ConditionsAreRecorded_E2 :
    Instr.wf (.decInv 0x000#10) = true ∧ condition (.decInv 0x000#10) State.reset = some .invalidCodeword := by
  decide +kernel
theorem witness_ConditionsAreRecorded_E3 :
    Instr.wf (.dec 0x30B#10) = true ∧ condition (.dec 0x30B#10) State.reset = some .disparityError := by decide +kernel
theorem witness_ConditionsAreRecorded_none :
    Instr.wf (.dec 0x0F4#10) = true ∧ condition (.dec 0x0F4#10) State.reset = none ∧
      target (.dec 0x0F4#10) = some .dec := by decide +kernel
theorem witness_WindowBits_low : 8 < 9 ∧ 9 < 10 := by decide
theorem witness_WindowBits_stream : 9 < 20 ∧ 9 < 10 ∧ 10 < 20 ∧ ¬10 < 10 := by decide
theorem witness_WindowBits_high : ¬ 9 < 9 ∧ 9 < 10 := by decide
theorem witness_DetectorCycle :
    window 0x29F#10 0x155#10 3 ∈ [0x0F9#10, 0x306#10, 0x0FA#10, 0x305#10, 0x0F8#10, 0x307#10] := by decide
theorem witness_CommaCarriers : legal 0xFC#8 true = true := by decide
theorem witness_AlignedCommaIsFoundAtBitZero :
    CdState.prev ⟨0x0FA#10, true, 0#10⟩ = (tableEnc 0xBC#8 true .neg).1 := by decide
theorem witness_NoCommaBetweenDataSymbols : 9 < 10 := by decide
theorem witness_StraddlingCommasFollowK28_7 :
    legal 0xFC#8 true = true ∧ legal 0x0C#8 false = true ∧
      isComma (window (tableEnc 0xFC#8 true .neg).1 (tableEnc 0x0C#8 false .neg).1 5) = true := by decide
theorem witness_StepRunsPresentedOperation_word : decode .encIn 0x0B5 = .ok (.encD 0xB5#8) := by decide
theorem witness_StepRunsPresentedOperation_empty : State.reset.pending = [] := by decide
theorem witness_CycleReadsValuesFromBeforeTheEdge :
    Cycle.enc ⟨some (.driven false 0x1BC#9), none, some .undriven⟩ = some (.driven false 0x1BC#9) ∧
      Cycle.dec ⟨some (.driven false 0x1BC#9), none, some .undriven⟩ = none := by decide
theorem witness_OperationsChangeOnlyTheirInstance : target (.disp .enc) ≠ some .enc ∧ target .encK28_5 ≠ some .dec := by
  decide
theorem witness_InstancesCommute : target .encK28_5 = some .enc ∧ target (.dec 0x0FA#10) = some .dec := by decide
theorem witness_InstanceDependsOnItselfAlone :
    exec (.rst .enc) (at_ .pos .neg) = .next (at_ .neg .neg) ∧
      exec (.rst .enc) (at_ .pos .pos) = .next (at_ .neg .pos) ∧
      (at_ .pos .neg).enc = (at_ .pos .pos).enc := ⟨rfl, rfl, rfl⟩
theorem witness_StepKeepsInvariant :
    State.reset.Inv ∧
      step (State.reset.present (portEvent (.rst .cd) 1)) = .next { State.reset with cycle := 1 } :=
  ⟨⟨fun _ => .inl ⟨rfl, rfl⟩, ⟨fun h => absurd h (by decide), fun _ => rfl⟩, fun _ => ⟨rfl, rfl⟩⟩, rfl⟩
theorem witness_LoopbackRoundTrip : ∀ w ∈ [(0x1BC#9, none)] ++ [((0x04A#9 : EncWord), (none : Option LinePins))],
    legalWord w.1 = true := by decide
theorem witness_OutputsAreRegistered_encoder : legalWord 0x1FE#9 = true := by decide
theorem witness_OutputsAreRegistered_decoder : tableDec 0x30B#10 = some (0x1C#8, true) := by decide +kernel

theorem witness_ObservationIsPortsOfEachCycle :
    0 < 1 ∧ runCycles 0 (State.reset.present (.read .enc)) = .next (State.reset.present (.read .enc)) := ⟨by decide, rfl⟩

end Sys2Proof.Tests
end

section
/-! PROOFS. The symbol table and the disparity model (40_symbol_table R76, R83, R88 to R90): disparity as a count of bits,
`Enc` by its sub-blocks, `Enc` and `Dec` as inverses on the legal inputs, and V with its size. -/

namespace Sys2Proof.Machine

/-! ## Disparity -/

/-- `popcount` counts the bit positions that hold a 1. -/
theorem onesBelow_eq_countP (n v : Nat) : onesBelow n v = (List.range n).countP (fun i => v.testBit i) := by
  induction n generalizing v with
  | zero => rfl
  | succ n ih =>
    have hlow : v % 2 = if v.testBit 0 = true then 1 else 0 := by
      rcases Nat.mod_two_eq_zero_or_one v with h | h <;> simp [Nat.testBit_zero, h]
    have hshift : ((fun i => v.testBit i) ∘ Nat.succ) = fun i => (v / 2).testBit i :=
      funext fun i => Nat.testBit_succ v i
    rw [onesBelow, ih, List.range_succ_eq_map, List.countP_cons, List.countP_map, hshift, hlow, Nat.add_comm]

theorem popcount_eq_countP {w : Nat} (p : BitVec w) :
    popcount p = (List.range w).countP (fun i => p.getLsbD i) :=
  onesBelow_eq_countP w p.toNat

theorem popcount_le {w : Nat} (p : BitVec w) : popcount p ≤ w := by
  rw [popcount_eq_countP]
  exact List.countP_le_length.trans_eq List.length_range

theorem popcount_append {m n : Nat} (p : BitVec m) (q : BitVec n) : popcount (p ++ q) = popcount p + popcount q := by
  have hlow : (List.range n).countP (fun i => (p ++ q).getLsbD i) = popcount q := by
    rw [popcount_eq_countP]
    refine List.countP_congr fun i hi => ?_
    rw [BitVec.getLsbD_append, if_pos (List.mem_range.1 hi)]
  have hhigh : (List.range m).countP ((fun i => (p ++ q).getLsbD i) ∘ fun i => n + i) = popcount p := by
    rw [popcount_eq_countP]
    refine List.countP_congr fun i _ => ?_
    simp [BitVec.getLsbD_append]
  have hsplit : List.range (m + n) = List.range n ++ (List.range m).map (fun i => n + i) := by
    rw [Nat.add_comm, List.range_add]
  rw [popcount_eq_countP (p ++ q), hsplit, List.countP_append, List.countP_map, hlow, hhigh, Nat.add_comm]

theorem disparity_append {m n : Nat} (p : BitVec m) (q : BitVec n) :
    disparity (p ++ q) = disparity p + disparity q := by
  simp only [disparity, popcount_append]
  omega

/-- Settles O6, from `popcount` as the count of 1 bits, of which a pattern has at most its width. -/
theorem disparityCountsOnes : Obligations.DisparityCountsOnes := by
  refine ⟨fun w p => ?_, fun s => rfl, by decide, by decide⟩
  have hle := popcount_le p
  refine ⟨by rw [disparity, popcount_eq_countP], ?_⟩
  rw [disparity]
  omega

/-! ## Disparity of a sub-block against RD -/

/-- A disparity that a sub-block or symbol sent at this RD may have: none, or two against RD (R83). -/
abbrev BalancesRd (rd : RD) (d : Int) : Prop := d = 0 ∨ d = -2 * rd.toInt

theorem rdBySign_zero (rd : RD) : rdBySign rd 0 = rd := rfl

/-- Such a disparity moves RD by its own amount (R82). -/
theorem toInt_rdBySign {rd : RD} {d : Int} (h : BalancesRd rd d) : (rdBySign rd d).toInt = rd.toInt + d := by
  rcases h with rfl | rfl
  · rw [rdBySign_zero, Int.add_zero]
  · cases rd <;> rfl

/-- Two sub-blocks in sequence, the second sent at the RD after the first, balance RD as one does. -/
theorem BalancesRd.add {rd : RD} {d e : Int} (hd : BalancesRd rd d) (he : BalancesRd (rdBySign rd d) e) :
    BalancesRd rd (d + e) := by
  have h := toInt_rdBySign hd
  unfold BalancesRd at *
  omega

/-! ## `Enc` by its sub-blocks -/

/-- The row of the data 3b/4b sub-code, in its alternate form or not (R57, R59). -/
def dataRow (y : BitVec 3) (alternate : Bool) : BitVec 4 × BitVec 4 :=
  if y = 7#3 ∧ alternate = true then a7 else t4d y

theorem enc4_data (x : BitVec 5) (y : BitVec 3) (rd : RD) : enc4 x y false rd = pick rd (dataRow y (usesA7 x rd)) := by
  rw [enc4, dataRow, if_neg Bool.false_ne_true]
  split <;> rfl

theorem enc4_control (x : BitVec 5) (y : BitVec 3) (rd : RD) : enc4 x y true rd = pick rd (t4k y) := rfl

/-- Every 6-bit sub-block balances the RD it is sent at, whatever its value and flag. -/
theorem balancesRd_enc6 (x : BitVec 5) (k : Bool) (rd : RD) : BalancesRd rd (disparity (enc6 x k rd)) := by
  revert x k
  cases rd <;> decide +kernel

/-- Every 4-bit sub-block balances the RD it is sent at. -/
theorem balancesRd_enc4 (x : BitVec 5) (y : BitVec 3) (k : Bool) (rd : RD) :
    BalancesRd rd (disparity (enc4 x y k rd)) := by
  cases k with
  | true =>
    rw [enc4_control]
    revert y
    cases rd <;> decide +kernel
  | false =>
    rw [enc4_data]
    generalize usesA7 x rd = alternate
    revert y alternate
    cases rd <;> decide +kernel

/-- `Enc` of a byte, its 4-bit sub-block sent at the RD after its 6-bit sub-block (R80). -/
theorem tableEnc_sym (v : Byte) (k : Bool) (rd : RD) :
    (tableEnc v k rd).1 =
      enc6 (codeX v) k rd ++ enc4 (codeX v) (codeY v) k (rdAfter rd (enc6 (codeX v) k rd)) := rfl

/-- The disparity of an encoding is 0 or two against its RD (R83), since both sub-blocks balance the RD they meet. -/
theorem balancesRd_tableEnc (v : Byte) (k : Bool) (rd : RD) : BalancesRd rd (delta (tableEnc v k rd).1) := by
  rw [tableEnc_sym, delta, disparity_append]
  exact (balancesRd_enc6 _ _ _).add (balancesRd_enc4 _ _ _ _)

/-- Symbols are equal exactly when their sub-blocks are. -/
theorem append_eq_append_iff {m n : Nat} {p p' : BitVec m} {q q' : BitVec n} :
    p ++ q = p' ++ q' ↔ p = p' ∧ q = q' := by
  constructor
  · intro h
    constructor
    · simpa only [BitVec.extractLsb'_append_eq_left] using congrArg (BitVec.extractLsb' n m) h
    · simpa only [BitVec.extractLsb'_append_eq_right] using congrArg (BitVec.extractLsb' 0 n) h
  · rintro ⟨rfl, rfl⟩
    rfl

/-! ## `Enc` is injective

The 6-bit sub-block names x, and K28 apart from D28 together with its RD. The 4-bit sub-block of a data byte names y; that
of K28.y names y because its RD is known; the other control codes have y = 7 and the pattern A7, which the data bytes of
their x do not use. -/

/-- A 6-bit sub-block names its x. -/
theorem invT6_enc6 (x : BitVec 5) (k : Bool) (rd : RD) : invT6 (enc6 x k rd) = some x := by
  revert x k
  cases rd <;> decide +kernel

/-- The 6-bit sub-block of x = 28 tells control from data. -/
theorem enc6_28_flag {k₁ k₂ : Bool} {rd₁ rd₂ : RD} (h : enc6 28#5 k₁ rd₁ = enc6 28#5 k₂ rd₂) : k₁ = k₂ := by
  revert k₁ k₂
  cases rd₁ <;> cases rd₂ <;> decide

/-- The 6-bit sub-block of K28 tells its RD. -/
theorem enc6_28_rd {rd₁ rd₂ : RD} (h : enc6 28#5 true rd₁ = enc6 28#5 true rd₂) : rd₁ = rd₂ := by
  revert h
  cases rd₁ <;> cases rd₂ <;> decide

/-- The y whose data row holds a 4-bit sub-block. -/
def invDataRow (p4 : BitVec 4) : Option (BitVec 3) :=
  ((List.range 8).map (BitVec.ofNat 3)).find? (fun y => rowHolds p4 (t4d y) || y == 7#3 && rowHolds p4 a7)

/-- The 4-bit sub-block of a data byte names its y, whatever the RD. -/
theorem invDataRow_enc4 (x : BitVec 5) (y : BitVec 3) (rd : RD) : invDataRow (enc4 x y false rd) = some y := by
  rw [enc4_data]
  generalize usesA7 x rd = alternate
  revert y alternate
  cases rd <;> decide +kernel

/-- At a known RD, the 4-bit sub-block of a control code names its y. -/
theorem pick_t4k_injective {y₁ y₂ : BitVec 3} {rd : RD} (h : pick rd (t4k y₁) = pick rd (t4k y₂)) : y₁ = y₂ := by
  revert y₁ y₂
  cases rd <;> decide

/-- The control codes other than K28.y have y = 7 and an x whose data bytes never use A7 (R58, R59). -/
theorem codeX_of_legal_control {v : Byte} (h : legal v true = true) :
    codeX v = 28#5 ∨ codeY v = 7#3 ∧ ∀ rd, usesA7 (codeX v) rd = false := by
  have check : ∀ d ∈ kset, codeX d = 28#5 ∨ codeY d = 7#3 ∧ usesA7 (codeX d) .neg = false ∧
      usesA7 (codeX d) .pos = false := by decide +kernel
  rcases check v ((inKset_iff v).1 h) with hx | ⟨hy, hneg, hpos⟩
  · exact .inl hx
  · exact .inr ⟨hy, fun rd => by cases rd <;> assumption⟩

/-- A data row not in its alternate form does not hold the control pattern of y = 7, which is A7. -/
theorem pick_dataRow_ne_t4k (y : BitVec 3) (rd₁ rd₂ : RD) : pick rd₁ (dataRow y false) ≠ pick rd₂ (t4k 7#3) := by
  revert y
  cases rd₁ <;> cases rd₂ <;> decide

/-- The fields x and y of a byte name it (R11). -/
@[simp] theorem codeByte_fields (v : Byte) : codeByte (codeX v) (codeY v) = v := by
  revert v
  decide +kernel

theorem byte_ext {v₁ v₂ : Byte} (hx : codeX v₁ = codeX v₂) (hy : codeY v₁ = codeY v₂) : v₁ = v₂ := by
  rw [← codeByte_fields v₁, hx, hy, codeByte_fields]

/-- What two equal encodings say of their sub-blocks: they have one x, one 6-bit and one 4-bit sub-block. -/
theorem subBlocks_of_tableEnc_eq {v₁ v₂ : Byte} {k₁ k₂ : Bool} {rd₁ rd₂ : RD}
    (h : (tableEnc v₁ k₁ rd₁).1 = (tableEnc v₂ k₂ rd₂).1) :
    codeX v₁ = codeX v₂ ∧ enc6 (codeX v₁) k₁ rd₁ = enc6 (codeX v₂) k₂ rd₂ ∧
      enc4 (codeX v₁) (codeY v₁) k₁ (rdAfter rd₁ (enc6 (codeX v₁) k₁ rd₁)) =
        enc4 (codeX v₂) (codeY v₂) k₂ (rdAfter rd₂ (enc6 (codeX v₂) k₂ rd₂)) := by
  rw [tableEnc_sym, tableEnc_sym, append_eq_append_iff] at h
  obtain ⟨h6, h4⟩ := h
  exact ⟨by simpa only [invT6_enc6, Option.some.injEq] using congrArg invT6 h6, h6, h4⟩

/-- A control code and a data byte have no encoding in common. -/
theorem tableEnc_control_ne_data {v₁ v₂ : Byte} (hl : legal v₁ true = true) (rd₁ rd₂ : RD) :
    (tableEnc v₁ true rd₁).1 ≠ (tableEnc v₂ false rd₂).1 := by
  intro h
  obtain ⟨hx, h6, h4⟩ := subBlocks_of_tableEnc_eq h
  rcases codeX_of_legal_control hl with h28 | ⟨hy, ha7⟩
  · rw [← hx, h28] at h6
    exact absurd (enc6_28_flag h6) (by decide)
  · rw [enc4_control, enc4_data, ← hx, hy, ha7] at h4
    exact pick_dataRow_ne_t4k _ _ _ h4.symm

theorem tableEnc_data_injective {v₁ v₂ : Byte} {rd₁ rd₂ : RD}
    (h : (tableEnc v₁ false rd₁).1 = (tableEnc v₂ false rd₂).1) : v₁ = v₂ := by
  obtain ⟨hx, -, h4⟩ := subBlocks_of_tableEnc_eq h
  exact byte_ext hx (by simpa only [invDataRow_enc4, Option.some.injEq] using congrArg invDataRow h4)

theorem tableEnc_control_injective {v₁ v₂ : Byte} {rd₁ rd₂ : RD} (h₁ : legal v₁ true = true)
    (h₂ : legal v₂ true = true) (h : (tableEnc v₁ true rd₁).1 = (tableEnc v₂ true rd₂).1) : v₁ = v₂ := by
  obtain ⟨hx, h6, h4⟩ := subBlocks_of_tableEnc_eq h
  refine byte_ext hx ?_
  rw [← hx] at h6 h4
  by_cases h28 : codeX v₁ = 28#5
  · rw [h28] at h6
    obtain rfl := enc6_28_rd h6
    exact pick_t4k_injective h4
  · have hy₁ := (codeX_of_legal_control h₁).resolve_left h28
    have hy₂ := (codeX_of_legal_control h₂).resolve_left (hx ▸ h28)
    rw [hy₁.1, hy₂.1]

/-- No symbol encodes two legal inputs, at whichever RDs (R89). -/
theorem tableEnc_injective {v₁ v₂ : Byte} {k₁ k₂ : Bool} {rd₁ rd₂ : RD} (h₁ : legal v₁ k₁ = true)
    (h₂ : legal v₂ k₂ = true) (h : (tableEnc v₁ k₁ rd₁).1 = (tableEnc v₂ k₂ rd₂).1) : v₁ = v₂ ∧ k₁ = k₂ := by
  cases k₁ <;> cases k₂
  case false.false => exact ⟨tableEnc_data_injective h, rfl⟩
  case false.true => exact absurd h.symm (tableEnc_control_ne_data h₂ rd₂ rd₁)
  case true.false => exact absurd h (tableEnc_control_ne_data h₁ rd₁ rd₂)
  case true.true => exact ⟨tableEnc_control_injective h₁ h₂ h, rfl⟩

/-! ## `Dec` -/

/-- `Dec` undoes `Enc` at either RD (R94). -/
theorem tableDec_tableEnc {v : Byte} {k : Bool} (hl : legal v k = true) (rd : RD) :
    tableDec (tableEnc v k rd).1 = some (v, k) := by
  have hv : validSym (tableEnc v k rd).1 = true := (validSym_iff _).2 ⟨v, k, rd, hl, rfl⟩
  rw [← tableDec_isSome, Option.isSome_iff_exists] at hv
  obtain ⟨p, hd⟩ := hv
  obtain ⟨hp, rd', he⟩ := tableDec_some hd
  obtain ⟨rfl, rfl⟩ := tableEnc_injective hp hl he
  exact hd

theorem tableDec_eq_some_iff (s : Sym) (v : Byte) (k : Bool) :
    tableDec s = some (v, k) ↔ legal v k = true ∧ ∃ rd, (tableEnc v k rd).1 = s := by
  constructor
  · exact tableDec_some
  · rintro ⟨hl, rd, rfl⟩
    exact tableDec_tableEnc hl rd

/-- Settles O11, from `Dec` undoing `Enc` and being defined on V alone. -/
theorem decIsTheInverse : Obligations.DecIsTheInverse := by
  refine fun s => ⟨fun v k => ?_, tableDec_none_iff s⟩
  rw [tableDec_eq_some_iff, ← isEncodingOf_iff s (v, k)]
  simp only [isEncodingOf, Bool.or_eq_true, beq_iff_eq, @eq_comm _ s]

/-! ## The size of V

A symbol of `EncSet(rd)` is the encoding of one legal input, so symbols of an `EncSet` are counted by counting inputs. -/

/-- The two encodings of the input are the same pattern (R84). -/
def variantsCoincide (p : Byte × Bool) : Bool := (tableEnc p.1 p.2 .neg).1 == (tableEnc p.1 p.2 .pos).1

theorem variantsCoincide_iff (p : Byte × Bool) (rd : RD) :
    variantsCoincide p = true ↔ (tableEnc p.1 p.2 rd.flip).1 = (tableEnc p.1 p.2 rd).1 := by
  rw [variantsCoincide, beq_iff_eq]
  cases rd with
  | neg => exact eq_comm
  | pos => exact Iff.rfl

/-- A 6-bit sub-block that is the same in both columns is balanced, so it leaves RD as it is. -/
theorem rdAfter_enc6_of_eq {x : BitVec 5} {k : Bool} (h : enc6 x k .neg = enc6 x k .pos) (rd : RD) :
    rdAfter rd (enc6 x k rd) = rd := by
  have hneg := balancesRd_enc6 x k .neg
  have hpos := balancesRd_enc6 x k .pos
  rw [h] at hneg
  have hzero : disparity (enc6 x k .pos) = 0 := by
    simp only [BalancesRd, RD.toInt] at hneg hpos
    omega
  cases rd with
  | neg => rw [rdAfter, h, hzero, rdBySign_zero]
  | pos => rw [rdAfter, hzero, rdBySign_zero]

/-- The two variants coincide exactly when both sub-blocks are the same in their two columns. -/
theorem variantsCoincide_eq (p : Byte × Bool) : variantsCoincide p =
    (enc6 (codeX p.1) p.2 .neg == enc6 (codeX p.1) p.2 .pos &&
      enc4 (codeX p.1) (codeY p.1) p.2 .neg == enc4 (codeX p.1) (codeY p.1) p.2 .pos) := by
  rw [Bool.eq_iff_iff, variantsCoincide, beq_iff_eq, tableEnc_sym, tableEnc_sym, append_eq_append_iff, Bool.and_eq_true,
    beq_iff_eq, beq_iff_eq]
  refine and_congr_right fun h6 => ?_
  rw [rdAfter_enc6_of_eq h6, rdAfter_enc6_of_eq h6]

/-- 72 of the 268 legal inputs have one pattern only, and 196 have two (R84). -/
theorem countP_variantsCoincide :
    legalInputs.countP variantsCoincide = 72 ∧ legalInputs.countP (fun p => !variantsCoincide p) = 196 := by
  simp only [funext variantsCoincide_eq]
  decide +kernel

theorem nodup_map_ofNat (w : Nat) : ((List.range (2 ^ w)).map (BitVec.ofNat w)).Nodup := by
  refine List.nodup_range.map_on fun m hm n hn h => ?_
  rw [List.mem_range] at hm hn
  simpa [Nat.mod_eq_of_lt, hm, hn] using congrArg BitVec.toNat h

/-- Patterns that a list names without repetition are as many as the list is long. -/
theorem countP_range_ofNat {P : Sym → Bool} {l : List Sym} (hl : l.Nodup) (hP : ∀ s, P s = true ↔ s ∈ l) :
    (List.range 1024).countP (fun n => P (BitVec.ofNat 10 n)) = l.length := by
  have hmem : ∀ s : Sym, s ∈ (List.range 1024).map (BitVec.ofNat 10) := fun s =>
    List.mem_map.2 ⟨s.toNat, List.mem_range.2 s.isLt, by simp⟩
  have hperm : (((List.range 1024).map (BitVec.ofNat 10)).filter P).Perm l :=
    (List.perm_ext_iff_of_nodup ((nodup_map_ofNat 10).filter P) hl).2 fun s => by
      rw [List.mem_filter, hP]
      exact and_iff_right (hmem s)
  rw [← hperm.length_eq, ← List.countP_eq_length_filter, List.countP_map]
  rfl

theorem nodup_legalInputs : legalInputs.Nodup := by
  have hdata : ((List.range 256).map fun n => (BitVec.ofNat 8 n, false)).Nodup := by
    have h := (nodup_map_ofNat 8).map (Prod.mk_left_injective false)
    rwa [List.map_map] at h
  have hcontrol : (kset.map fun d => (d, true)).Nodup := by decide
  refine List.nodup_append'.2 ⟨hdata, hcontrol, fun p hd hc => ?_⟩
  obtain ⟨n, -, rfl⟩ := List.mem_map.1 hd
  obtain ⟨d, -, h⟩ := List.mem_map.1 hc
  cases congrArg Prod.snd h

/-- `EncSet(rd)` lists no symbol twice (R86). -/
theorem nodup_encSet (rd : RD) : (encSet rd).Nodup :=
  nodup_legalInputs.map_on fun p hp q hq h =>
    Prod.ext_iff.2 (tableEnc_injective ((mem_legalInputs p).1 hp) ((mem_legalInputs q).1 hq) h)

/-- Symbols of `EncSet(rd)` with a property are as many as the legal inputs whose encoding at rd has it (R86). -/
theorem countP_expected (rd : RD) (P : Sym → Bool) :
    (List.range 1024).countP (fun n => expected (BitVec.ofNat 10 n) rd && P (BitVec.ofNat 10 n)) =
      legalInputs.countP (fun p => P (tableEnc p.1 p.2 rd).1) := by
  have hmem : ∀ s, (expected s rd && P s) = true ↔ s ∈ (encSet rd).filter P := fun s => by
    rw [List.mem_filter, Bool.and_eq_true, expected, List.contains_iff_mem]
  rw [countP_range_ofNat ((nodup_encSet rd).filter P) hmem, ← List.countP_eq_length_filter, encSet, List.countP_map]
  rfl

/-- A legal encoding is in the other column as well exactly when the input's two variants coincide (R87). -/
theorem expected_flip_tableEnc {p : Byte × Bool} (hp : p ∈ legalInputs) (rd : RD) :
    expected (tableEnc p.1 p.2 rd).1 rd.flip = variantsCoincide p := by
  have hl := (mem_legalInputs p).1 hp
  rw [Bool.eq_iff_iff, expected_iff, variantsCoincide_iff p rd]
  constructor
  · rintro ⟨v, k, hl', h⟩
    obtain ⟨rfl, rfl⟩ := tableEnc_injective hl' hl h
    exact h
  · exact fun h => ⟨p.1, p.2, hl, h⟩

/-- 72 symbols are in both columns (R87). -/
theorem countP_expected_both :
    (List.range 1024).countP (fun n => expected (BitVec.ofNat 10 n) .neg && expected (BitVec.ofNat 10 n) .pos) = 72 := by
  rw [countP_expected .neg (fun s => expected s .pos), ← countP_variantsCoincide.1]
  exact List.countP_congr fun p hp => by rw [← expected_flip_tableEnc hp .neg]; rfl

/-- 196 symbols are in the column of rd alone (R87). -/
theorem countP_expected_only (rd : RD) :
    (List.range 1024).countP (fun n => expected (BitVec.ofNat 10 n) rd && !expected (BitVec.ofNat 10 n) rd.flip) =
      196 := by
  rw [countP_expected rd (fun s => !expected s rd.flip), ← countP_variantsCoincide.2]
  exact List.countP_congr fun p hp => by rw [expected_flip_tableEnc hp]

/-- What meets one of two conditions meets both, the first alone or the second alone. -/
theorem countP_or_eq_add {α : Type} (a b : α → Bool) (l : List α) :
    l.countP (fun x => a x || b x) =
      l.countP (fun x => a x && b x) + l.countP (fun x => a x && !b x) + l.countP (fun x => !a x && b x) := by
  induction l with
  | nil => rfl
  | cons x l ih =>
    simp only [List.countP_cons, ih]
    cases a x <;> cases b x <;> simp <;> omega

/-- V is counted by column: both, the RD- column alone, the RD+ column alone (R88). -/
theorem countP_validSym (ns : List Nat) :
    ns.countP (fun n => validSym (BitVec.ofNat 10 n)) =
      ns.countP (fun n => expected (BitVec.ofNat 10 n) .neg && expected (BitVec.ofNat 10 n) .pos) +
      ns.countP (fun n => expected (BitVec.ofNat 10 n) .neg && !expected (BitVec.ofNat 10 n) .pos) +
      ns.countP (fun n => !expected (BitVec.ofNat 10 n) .neg && expected (BitVec.ofNat 10 n) .pos) :=
  countP_or_eq_add _ _ ns

/-- Every valid symbol has delta -2, 0 or +2 (R88). -/
theorem delta_of_validSym {s : Sym} (h : validSym s = true) : delta s = -2 ∨ delta s = 0 ∨ delta s = 2 := by
  obtain ⟨v, k, rd, -, rfl⟩ := (validSym_iff s).1 h
  rcases balancesRd_tableEnc v k rd with h0 | h2
  · exact .inr (.inl h0)
  · cases rd with
    | neg => exact .inr (.inr h2)
    | pos => exact .inl h2

/-- Settles O9, counting V as the symbols of both columns and of each column alone, by the legal inputs they encode. -/
theorem validCodewordSet : Obligations.ValidCodewordSet := by
  have hboth := countP_expected_both
  have hneg : (List.range 1024).countP
      (fun n => expected (BitVec.ofNat 10 n) .neg && !expected (BitVec.ofNat 10 n) .pos) = 196 :=
    countP_expected_only .neg
  have hpos : (List.range 1024).countP
      (fun n => !expected (BitVec.ofNat 10 n) .neg && expected (BitVec.ofNat 10 n) .pos) = 196 :=
    (List.countP_congr fun n _ => by rw [Bool.and_comm]; rfl).trans (countP_expected_only .pos)
  have hvalid : (List.range 1024).countP (fun n => validSym (BitVec.ofNat 10 n)) = 464 := by
    rw [countP_validSym, hboth, hneg, hpos]
  refine ⟨validSym_iff, hvalid, hboth, hneg, hpos, fun s => delta_of_validSym, ?_, ?_, by decide +kernel⟩
  · exact Bool.eq_false_iff.2 fun h => absurd (delta_of_validSym h) (by decide)
  · exact Bool.eq_false_iff.2 fun h => absurd (delta_of_validSym h) (by decide)

end Sys2Proof.Machine
end

section
/-! PROOFS. The encoder cycle (41_encoder R97 to R99): the outcome of the selected operation for each kind of input, from the
laws of selection and of `encoderCycle`. -/

namespace Sys2Proof.Machine

/-- A legal input is a data byte, or a control byte of KSET (R81). -/
theorem legal_iff (v : Byte) (k : Bool) : legal v k = true ↔ k = false ∨ inKset v = true := by
  cases k with
  | false => simp only [legal_data, true_or]
  | true => simp only [legal_control, Bool.true_eq_false, false_or]

/-- Of an unsupported control value only the symbol and the RD are open: every other field is named (R99). -/
theorem State.exists_drawEnc_eq (s : State) (d : Byte) :
    ∃ q rd, s.drawEnc d = { s with enc := { q := q, rd := rd, misuse := true, draws := s.enc.draws + 1 } } :=
  ⟨_, _, rfl⟩

/-- The encoder cycle on a control value outside KSET, with the open values as such (R97, R99). -/
theorem exists_encoderCycle_unsupported {d : Byte} (h : inKset d = false) (s : State) :
    ∃ q rd, encoderCycle d true s =
      .next { s with enc := { q := q, rd := rd, misuse := true, draws := s.enc.draws + 1 } } := by
  obtain ⟨q, rd, hdraw⟩ := s.exists_drawEnc_eq d
  exact ⟨q, rd, by rw [encoderCycle_unsupported ((legal_control d).trans h), hdraw]⟩

end Sys2Proof.Machine

/-! The obligations stand in a namespace of their own, where the theorem `encoderCycle` and the model's function of that name
do not collide. -/

namespace Sys2Proof.Encoder

open Sys2Proof.Machine

/-- Settles O15, by the kind of input: a reset, a legal input, an unsupported control value. -/
theorem encoderCycle : Obligations.EncoderCycle := by
  intro rst w s
  refine ⟨?reset, ?legalInput, ?unsupported⟩
  case reset =>
    rintro rfl
    rw [selectEnc_reset]
    rfl
  case legalInput =>
    rintro rfl hinput
    rw [exec_selectEnc, encoderCycle_legal ((legal_iff _ _).2 hinput)]
    rfl
  case unsupported =>
    rintro rfl hk hbyte
    rw [exec_selectEnc, hk]
    exact exists_encoderCycle_unsupported hbyte s

/-- Settles O18: `ENC.BADK` runs the encoder cycle with `k` = 1, of which this is the unsupported case. -/
theorem encodeUnsupportedControl : Obligations.EncodeUnsupportedControl :=
  fun _ s hbyte => exists_encoderCycle_unsupported hbyte s

end Sys2Proof.Encoder
end

section
/-! PROOFS. The decoder cycle (42_decoder R108, R110, R111, R113, R114): the outcome of the selected operation for each kind of
symbol, from the laws of selection and of `decoderCycle`, and what the registers of any symbol say. -/

namespace Sys2Proof.Machine

/-! ## The sign of a disparity -/

theorem rdBySign_of_pos {d : Int} (h : 0 < d) (rd : RD) : rdBySign rd d = .pos := if_pos h

theorem rdBySign_of_neg {d : Int} (h : d < 0) (rd : RD) : rdBySign rd d = .neg := by
  rw [rdBySign, if_neg (Int.lt_asymm h), if_pos h]

/-! ## The outcome for each kind of symbol -/

/-- Of an invalid codeword only the value and the flag are open: every other field is named (R110). -/
theorem State.exists_drawDec_eq (s : State) (sy : Sym) :
    ∃ v k, s.drawDec sy = { s with dec :=
      { rd := decNextRd s.dec.rd sy, d := v, k := k, inv := true, derr := false, draws := s.dec.draws + 1 } } :=
  ⟨_, _, rfl⟩

/-- The decoder cycle on a symbol outside V, with the open values as such (R108, R110). -/
theorem exists_decoderCycle_invalid {sy : Sym} (h : validSym sy = false) (s : State) :
    ∃ v k, decoderCycle sy s = .next { s with dec :=
      { rd := decNextRd s.dec.rd sy, d := v, k := k, inv := true, derr := false, draws := s.dec.draws + 1 } } := by
  obtain ⟨v, k, hdraw⟩ := s.exists_drawDec_eq sy
  exact ⟨v, k, by rw [decoderCycle_none ((tableDec_none_iff sy).2 h), hdraw]⟩

/-! ## Flags and RD after any symbol -/

/-- `disp_err` of a valid codeword says that no legal input encodes to it at this RD (R91, R113). -/
theorem dispViolation_iff (sy : Sym) (rd : RD) :
    dispViolation sy rd = true ↔ ∀ v k, legal v k = true → (tableEnc v k rd).1 ≠ sy := by
  rw [dispViolation, Bool.not_eq_true', Bool.eq_false_iff, Ne, expected_iff]
  push Not
  exact Iff.rfl

/-- The flags and the RD that any symbol leaves, valid or not (R111, R113, R114). -/
theorem exists_decoderCycle_flags (sy : Sym) (s : State) :
    ∃ t, decoderCycle sy s = .next t ∧ t.dec.rd = decNextRd s.dec.rd sy ∧ t.dec.inv = !validSym sy ∧
      t.dec.derr = (validSym sy && dispViolation sy s.dec.rd) := by
  cases hv : validSym sy with
  | true =>
    rw [← tableDec_isSome, Option.isSome_iff_exists] at hv
    obtain ⟨p, hp⟩ := hv
    exact ⟨_, decoderCycle_some hp s, rfl, rfl, rfl⟩
  | false => exact ⟨_, decoderCycle_none ((tableDec_none_iff sy).2 hv) s, rfl, rfl, rfl⟩

end Sys2Proof.Machine

/-! The obligations stand in a namespace of their own, where the theorem `decoderCycle` and the model's function of that name
do not collide. -/

namespace Sys2Proof.Decoder

open Sys2Proof.Machine

/-- Settles O23, by the kind of input: a reset, a valid codeword, an invalid codeword. -/
theorem decoderCycle : Obligations.DecoderCycle := by
  intro rst sy s
  refine ⟨?reset, ?valid, ?invalid⟩
  case reset =>
    rintro rfl
    rw [selectDec_reset]
    rfl
  case valid =>
    rintro rfl v k hdec
    rw [exec_selectDec, decoderCycle_some hdec]
    rfl
  case invalid =>
    rintro rfl hv
    rw [exec_selectDec]
    exact exists_decoderCycle_invalid hv s

/-- Settles O26, from the flags and the RD that any symbol leaves. -/
theorem decoderFlagsAndRd : Obligations.DecoderFlagsAndRd := by
  intro sy s
  obtain ⟨t, ht, hrd, hinv, hderr⟩ := exists_decoderCycle_flags sy s
  refine ⟨t, (exec_selectDec sy s).trans ht, ?invalid, ?dispErr, ?exclusive, ?pos, ?neg, ?zero⟩
  case invalid => rw [hinv, Bool.not_eq_true']
  case dispErr => rw [hderr, Bool.and_eq_true, dispViolation_iff]
  case exclusive =>
    rw [hinv, hderr]
    cases validSym sy <;> simp
  case pos => exact fun h => hrd.trans (rdBySign_of_pos h _)
  case neg => exact fun h => hrd.trans (rdBySign_of_neg h _)
  case zero =>
    intro h
    rw [hrd, decNextRd, h, rdBySign_zero]

/-- Settles O25: `DEC.INV` runs the decoder cycle, of which this is the invalid case; and the next symbol sets `invalid` by
itself. -/
theorem decodeInvalidCodeword : Obligations.DecodeInvalidCodeword := by
  intro sy s hv
  refine ⟨exists_decoderCycle_invalid hv s, fun sy' => ?_⟩
  obtain ⟨u, hu, -⟩ := exists_decoderCycle_flags sy s
  obtain ⟨t, ht, -, hinv, -⟩ := exists_decoderCycle_flags sy' u
  have hexec : exec (.decInv sy) s = .next u := hu
  refine ⟨t, ?_, by rw [hinv, Bool.not_eq_true']⟩
  rw [execAll_cons, hexec, andThen_next, execAll_singleton, exec_selectDec, ht]

end Sys2Proof.Decoder
end

section
/-! PROOFS. The frame of every operation (43_disparity_state_machine R128): an operation changes one component of the state,
the registers of its `target`, or the reader's field for an accessor read. -/

namespace Sys2Proof.Machine

/-! ## Changing one component -/

/-- The state `t` is `s` with only the registers of the given `Inst` changed; with `none`, only the reader's field. -/
inductive ChangesOnly (s : State) : Option Inst → State → Prop where
  | enc (e : EncState) : ChangesOnly s (some .enc) { s with enc := e }
  | dec (d : DecState) : ChangesOnly s (some .dec) { s with dec := d }
  | cd (c : CdState) : ChangesOnly s (some .cd) { s with cd := c }
  | reading (r : Option (Accessor × BitVec 1)) : ChangesOnly s none { s with reading := r }

namespace ChangesOnly

variable {s t : State} {n : Option Inst}

theorem enc_eq (h : ChangesOnly s n t) (hn : n ≠ some .enc) : t.enc = s.enc := by
  cases h with
  | enc => exact absurd rfl hn
  | dec | cd | reading => rfl

theorem dec_eq (h : ChangesOnly s n t) (hn : n ≠ some .dec) : t.dec = s.dec := by
  cases h with
  | dec => exact absurd rfl hn
  | enc | cd | reading => rfl

theorem cd_eq (h : ChangesOnly s n t) (hn : n ≠ some .cd) : t.cd = s.cd := by
  cases h with
  | cd => exact absurd rfl hn
  | enc | dec | reading => rfl

theorem reading_eq (h : ChangesOnly s n t) (hn : n ≠ none) : t.reading = s.reading := by
  cases h with
  | reading => exact absurd rfl hn
  | enc | dec | cd => rfl

theorem pending_eq (h : ChangesOnly s n t) : t.pending = s.pending := by cases h <;> rfl

theorem cycle_eq (h : ChangesOnly s n t) : t.cycle = s.cycle := by cases h <;> rfl

end ChangesOnly

/-! ## What an operation changes -/

theorem encodeLegal_changesOnly (v : Byte) (k : Bool) (s : State) :
    ∃ t, encodeLegal v k s = .next t ∧ ChangesOnly s (some .enc) t := ⟨_, rfl, .enc _⟩

theorem encoderCycle_changesOnly (v : Byte) (k : Bool) (s : State) :
    ∃ t, encoderCycle v k s = .next t ∧ ChangesOnly s (some .enc) t := by
  cases h : legal v k with
  | true => exact ⟨_, encoderCycle_legal h s, .enc _⟩
  | false => exact ⟨_, encoderCycle_unsupported h s, .enc _⟩

theorem decoderCycle_changesOnly (sy : Sym) (s : State) :
    ∃ t, decoderCycle sy s = .next t ∧ ChangesOnly s (some .dec) t := by
  cases h : tableDec sy with
  | some p => exact ⟨_, decoderCycle_some h s, .dec _⟩
  | none => exact ⟨_, decoderCycle_none h s, .dec _⟩

theorem execRst_changesOnly (n : Inst) (s : State) : ∃ t, execRst n s = .next t ∧ ChangesOnly s (some n) t := by
  cases n with
  | enc => exact ⟨_, rfl, .enc _⟩
  | dec => exact ⟨_, rfl, .dec _⟩
  | cd => exact ⟨_, rfl, .cd _⟩

/-- Every operation goes on and changes its `target` only (R128). -/
theorem exec_changesOnly (i : Instr) (s : State) : ∃ t, exec i s = .next t ∧ ChangesOnly s (target i) t := by
  cases i with
  | encD | encK28_0 | encK28_1 | encK28_2 | encK28_3 | encK28_4 | encK28_5 | encK28_6 | encK28_7 | encK23_7 | encK27_7
  | encK29_7 | encK30_7 => exact encodeLegal_changesOnly _ _ s
  | encBadk d => exact encoderCycle_changesOnly d true s
  | dec sy | decInv sy => exact decoderCycle_changesOnly sy s
  | cdet w => exact ⟨_, rfl, .cd _⟩
  | rst n => exact execRst_changesOnly n s
  | disp a => exact ⟨_, rfl, .reading _⟩

/-- The accessor reads alone have no `target` (R62). -/
theorem target_eq_none_iff (i : Instr) : target i = none ↔ ∃ a, i = .disp a := by cases i <;> simp [target]

/-- Settles O45, from the one component that an operation changes. -/
theorem operationsChangeOnlyTheirInstance : Obligations.OperationsChangeOnlyTheirInstance := by
  intro i s
  obtain ⟨t, ht, hc⟩ := exec_changesOnly i s
  refine ⟨t, ht, hc.enc_eq, hc.dec_eq, hc.cd_eq, hc.pending_eq, hc.cycle_eq, fun hread => ?_⟩
  refine hc.reading_eq fun htarget => ?_
  obtain ⟨a, ha⟩ := (target_eq_none_iff i).1 htarget
  exact hread a ha

end Sys2Proof.Machine
end

section
/-! PROOFS. The comma detector (44_comma_detector R134, R137 to R140): the bits of a window and of a slice of the stream, the
comma flags bit by bit, and the detector's operation and reset. -/

namespace Sys2Proof.Machine

/-! ## Windows -/

/-- The low k bits of window k are the high k bits of the second word, the others the low 10 - k bits of the first (R134). -/
theorem getLsbD_window (p c : Sym) {k j : Nat} (hk : k < 10) (hj : j < 10) :
    (window p c k).getLsbD j = if j < k then c.getLsbD (10 - k + j) else p.getLsbD (j - k) := by
  rw [window, BitVec.getLsbD_setWidth, decide_eq_true hj, Bool.true_and, BitVec.getLsbD_ushiftRight,
    BitVec.getLsbD_append]
  by_cases h : j < k
  · rw [if_pos h, if_pos (by omega)]
  · rw [if_neg h, if_neg (by omega), show 10 - k + j - 10 = j - k by omega]

@[simp] theorem window_zero (p c : Sym) : window p c 0 = p := by
  refine BitVec.eq_of_getLsbD_eq fun j hj => ?_
  rw [getLsbD_window p c (by decide) hj, if_neg (Nat.not_lt_zero j), Nat.sub_zero]

/-- Ten bits that begin above the last word of a stream do not depend on it. -/
theorem slice_append_above {m : Nat} (x : BitVec m) (c : Sym) (i : Nat) :
    ((x ++ c) >>> (10 + i)).setWidth 10 = (x >>> i).setWidth 10 := by
  refine BitVec.eq_of_getLsbD_eq fun j hj => ?_
  simp only [BitVec.getLsbD_setWidth, BitVec.getLsbD_ushiftRight, BitVec.getLsbD_append]
  rw [if_neg (by omega), show 10 + i + j - 10 = i + j by omega]

/-- Ten bits that end within the last two words of a stream do not depend on the words before. -/
theorem slice_append_within (a b c : Sym) {i : Nat} (hi : i ≤ 10) :
    ((a ++ b ++ c) >>> i).setWidth 10 = ((b ++ c) >>> i).setWidth 10 := by
  refine BitVec.eq_of_getLsbD_eq fun j hj => ?_
  simp only [BitVec.getLsbD_setWidth, BitVec.getLsbD_ushiftRight, BitVec.getLsbD_append]
  rw [if_pos (show i + j - 10 < 10 by omega)]

/-- Settles O31: the stream's bits at an offset are a slice of the first pair of words or of the second. -/
theorem windowBits : Obligations.WindowBits := by
  refine ⟨window_zero, fun p c k j hk hj => getLsbD_window p c hk hj, fun a b c n hn => ?_⟩
  by_cases h : n < 10
  · rw [if_pos h, show 20 - n = 10 + (10 - n) by omega, slice_append_above, window]
  · rw [if_neg h, show 20 - n = 10 - (n - 10) by omega, slice_append_within a b c (Nat.sub_le _ _), window]

/-! ## Comma flags -/

theorem isComma_iff (w : Sym) : isComma w = true ↔ w ∈ comma6 := List.contains_iff_mem

theorem commaFlags_primed {c : CdState} (h : c.primed = true) (w : Sym) : commaFlags c w = commaMatch c.prev w := if_pos h

theorem commaFlags_unprimed {c : CdState} (h : c.primed = false) (w : Sym) : commaFlags c w = 0#10 := by
  rw [commaFlags, h, if_neg Bool.false_ne_true]

/-- A comma flag is set by a pattern in its window, once a word was received (R137, R139). -/
theorem getLsbD_commaFlags_iff (c : CdState) (w : Sym) {k : Nat} (hk : k < 10) :
    (commaFlags c w).getLsbD k = true ↔ c.primed = true ∧ window c.prev w k ∈ comma6 := by
  cases h : c.primed with
  | true => simp [commaFlags_primed h, getLsbD_commaMatch _ _ hk, isComma_iff]
  | false => simp [commaFlags_unprimed h]

/-! ## The detector's operation and reset -/

theorem exec_cdet (w : Sym) (s : State) : exec (.cdet w) s = .next (s.latchCd w) := rfl

theorem exec_rst_cd (s : State) : exec (.rst .cd) s = .next s.resetCd := rfl

/-- The position flags are a register (R28), shown as they are. -/
@[simp] theorem State.ports_cdCommaPos (s : State) : s.ports.cdCommaPos = s.cd.pos := rfl

/-- `cd.comma` is computed from the flags (R28). -/
@[simp] theorem State.ports_cdComma (s : State) : s.ports.cdComma = anyComma s.cd.pos := rfl

theorem State.ports_cdComma_of_pos_zero {s : State} (h : s.cd.pos = 0#10) : s.ports.cdComma = false := by
  rw [State.ports_cdComma, h]
  decide

/-- Settles O32: the flags the operation latches are `commaFlags`, whose bits say what windows hold. -/
theorem detectorCycle : Obligations.DetectorCycle := by
  intro w s
  refine ⟨?reset, rfl, commaFlags s.cd w, exec_cdet w s, fun k hk => getLsbD_commaFlags_iff s.cd w hk, ?ports⟩
  case reset => rw [selectCd_reset, exec_rst_cd, State.resetCd]
  case ports =>
    intro t ht
    rw [exec_cdet] at ht
    cases ht
    exact ⟨State.latchCd_cd_pos s w, anyComma_iff _⟩

/-- Settles O33: the first word primes the detector for the second, and a reset leaves it unprimed. -/
theorem detectorWarmUp : Obligations.DetectorWarmUp := by
  refine ⟨fun s w₁ w₂ => ?twoWords, fun s w => ?afterReset⟩
  case twoWords =>
    refine ⟨(s.latchCd w₁).latchCd w₂, ?_, ?_⟩
    · rw [execAll_cons, exec_cdet, andThen_next, execAll_singleton, exec_cdet]
    · rw [State.ports_cdCommaPos, State.latchCd_cd_pos, commaFlags_primed (s.latchCd_cd_primed w₁),
        State.latchCd_cd_prev]
  case afterReset =>
    have hpos : (s.resetCd.latchCd w).cd.pos = 0#10 := by
      rw [State.latchCd_cd_pos, commaFlags_unprimed s.resetCd_cd_primed]
    exact ⟨s.resetCd, s.resetCd.latchCd w, exec_rst_cd s, s.resetCd_cd_pos,
      State.ports_cdComma_of_pos_zero s.resetCd_cd_pos, exec_cdet w _, hpos, State.ports_cdComma_of_pos_zero hpos⟩

end Sys2Proof.Machine
end

section
/-! PROOFS. Reset and registered outputs (70_reset_and_hazards R167, R175): the reset of each instance, and the step that ends
the cycle in which one instance is given a word. -/

namespace Sys2Proof.Machine

/-! ## Reset -/

theorem exec_rst_enc (s : State) : exec (.rst .enc) s = .next s.resetEnc := rfl

theorem exec_rst_dec (s : State) : exec (.rst .dec) s = .next s.resetDec := rfl

/-- Settles O38, from the reset of each instance and the selection at `rst` = 1. -/
theorem resetLoadsResetValues : Obligations.ResetLoadsResetValues := fun s =>
  ⟨exec_rst_enc s, exec_rst_dec s, exec_rst_cd s, selectEnc_reset, selectDec_reset, selectCd_reset⟩

/-! ## The step on a word presented to one instance -/

/-- The ports show registers, and what is presented is none (R23, R26, R28). -/
@[simp] theorem State.present_ports (s : State) (e : Event) : (s.present e).ports = s.ports := rfl

/-- A cycle in which one instance has an edge runs the operation that instance's pins select. -/
theorem step_present_of_ops {c : Cycle} {i : Instr} {s : State} (h : c.ops s = [i]) :
    step (s.present (.cycle c)) = exec i { s with cycle := s.cycle + 1 } := by
  rw [step_eq, fetch_cycle, h, execAll_singleton]

theorem step_present_encIn (s : State) (w : EncWord) :
    step (s.present (portEvent .encIn w.toNat)) =
      encoderCycle (encWordByte w) (encWordK w) { s with cycle := s.cycle + 1 } := by
  have hops : Cycle.ops ⟨some (.driven false w), none, none⟩ s = [selectEnc false w] := rfl
  rw [portEvent, BitVec.ofNat_toNat, BitVec.setWidth_eq, step_present_of_ops hops, exec_selectEnc]

theorem step_present_decS (s : State) (sy : Sym) :
    step (s.present (portEvent .decS sy.toNat)) = decoderCycle sy { s with cycle := s.cycle + 1 } := by
  have hops : Cycle.ops ⟨none, some (.driven false (.word sy)), none⟩ s = [selectDec false sy] := rfl
  rw [portEvent, BitVec.ofNat_toNat, BitVec.setWidth_eq, step_present_of_ops hops, exec_selectDec]

theorem step_present_cdW (s : State) (w : Sym) :
    step (s.present (portEvent .cdW w.toNat)) = .next ({ s with cycle := s.cycle + 1 }.latchCd w) := by
  have hops : Cycle.ops ⟨none, none, some (.driven false (.word w))⟩ s = [selectCd false w] := rfl
  rw [portEvent, BitVec.ofNat_toNat, BitVec.setWidth_eq, step_present_of_ops hops, exec_selectCd]

/-! ## Registered outputs -/

/-- After a valid codeword the decoder holds the input that `Dec` names (R109). -/
theorem decoderCycle_value {sy : Sym} {v : Byte} {k : Bool} {s t : State} (h : decoderCycle sy s = .next t)
    (hdec : tableDec sy = some (v, k)) : t.dec.d = v ∧ t.dec.k = k := by
  rw [decoderCycle_some hdec] at h
  cases h
  exact ⟨State.latchDec_dec_d _ sy v k, State.latchDec_dec_k _ sy v k⟩

/-- Settles O41: a presented word is in no register until the step, which runs its instance's cycle on it. -/
theorem outputsAreRegistered : Obligations.OutputsAreRegistered := by
  refine ⟨State.present_ports, fun s w hlegal => ?encoder, fun s sy => ?decoder, fun s w => ?detector⟩
  case encoder => exact ⟨_, (step_present_encIn s w).trans (encoderCycle_legal hlegal _), rfl, rfl⟩
  case decoder =>
    obtain ⟨t, ht, hrd, hinv, hderr⟩ := exists_decoderCycle_flags sy { s with cycle := s.cycle + 1 }
    exact ⟨t, (step_present_decS s sy).trans ht, hinv, hderr, congrArg RD.toBit hrd, fun v k => decoderCycle_value ht⟩
  case detector => exact ⟨_, step_present_cdW s w, State.latchCd_cd_pos _ w⟩

end Sys2Proof.Machine
end

section
/-! PROOFS. The numbering of operations (30_encoding R51, R52, R62 to R64, R67, R68): what a word of a port selects, and the word
that presents a selected operation, as inverses of each other. -/

namespace Sys2Proof

open Machine

/-! ## Selection by the fields of a word -/

theorem selectEnc_encWord_data (d : Byte) : selectEnc false (encWord false d) = .encD d := by simp [selectEnc]

theorem selectEnc_encWord_control (d : Byte) : selectEnc false (encWord true d) = selectControl d := by simp [selectEnc]

theorem selectDec_valid {sy : Sym} (h : validSym sy = true) : selectDec false sy = .dec sy := by simp [selectDec, h]

theorem selectDec_invalid {sy : Sym} (h : validSym sy = false) : selectDec false sy = .decInv sy := by simp [selectDec, h]

/-- What holds of the twelve control codes and of `ENC.BADK` outside KSET holds of every control request (R63). -/
theorem selectControl_induct {P : Byte → Instr → Prop} (hcode : ∀ d ∈ kset, P d (selectControl d))
    (hbad : ∀ d, inKset d = false → P d (.encBadk d)) (d : Byte) : P d (selectControl d) := by
  cases h : inKset d with
  | true => exact hcode d ((inKset_iff d).1 h)
  | false => exact selectControl_unsupported h ▸ hbad d h

/-- What holds of every data byte and of every control request holds of every encoder word (R51, R63). -/
theorem selectEnc_induct {P : EncWord → Instr → Prop} (hdata : ∀ d, P (encWord false d) (.encD d))
    (hcontrol : ∀ d, P (encWord true d) (selectControl d)) (w : EncWord) : P w (selectEnc false w) := by
  rw [← encWord_fields w]
  cases encWordK w with
  | false => exact selectEnc_encWord_data _ ▸ hdata _
  | true => exact selectEnc_encWord_control _ ▸ hcontrol _

/-! ## Decoding a word of each port -/

theorem decode_encIn (w : EncWord) : decode .encIn w.toNat = .ok (selectEnc false w) := by
  rw [decode_fitting (p := .encIn) w.isLt, decodeFitting, BitVec.ofNat_toNat, BitVec.setWidth_eq]

theorem decode_decS (sy : Sym) : decode .decS sy.toNat = .ok (selectDec false sy) := by
  rw [decode_fitting (p := .decS) sy.isLt, decodeFitting, BitVec.ofNat_toNat, BitVec.setWidth_eq]

theorem decode_cdW (w : Sym) : decode .cdW w.toNat = .ok (.cdet w) := by
  rw [decode_fitting (p := .cdW) w.isLt, decodeFitting, BitVec.ofNat_toNat, BitVec.setWidth_eq]
  rfl

theorem decode_rst (n : Inst) : decode (.rst n) 1 = .ok (.rst n) := rfl

theorem decode_disp (a : Accessor) : decode (.disp a) 0 = .ok (.disp a) := rfl

/-- Settles O1, by the port that presents each kind of operation. -/
theorem decodeOfEncodedOperation : Obligations.DecodeOfEncodedOperation := by
  intro i hwf
  cases i with
  | encD d => rw [encode, decode_encIn, selectEnc_encWord_data]
  | encK28_0 | encK28_1 | encK28_2 | encK28_3 | encK28_4 | encK28_5 | encK28_6 | encK28_7 | encK23_7 | encK27_7
  | encK29_7 | encK30_7 => rfl
  | encBadk d =>
    have hbyte : inKset d = false := by simpa [Instr.wf] using hwf
    rw [encode, decode_encIn, selectEnc_encWord_control, selectControl_unsupported hbyte]
  | dec sy => rw [encode, decode_decS, selectDec_valid hwf]
  | decInv sy =>
    have hsym : validSym sy = false := by simpa [Instr.wf] using hwf
    rw [encode, decode_decS, selectDec_invalid hsym]
  | cdet w => exact decode_cdW w
  | rst n => exact decode_rst n
  | disp a => exact decode_disp a

/-! ## The operation that a word selects -/

theorem encode_selectControl (d : Byte) : encode (selectControl d) = (.encIn, (encWord true d).toNat) :=
  selectControl_induct (P := fun d i => encode i = (.encIn, (encWord true d).toNat)) (by decide +kernel) (fun _ _ => rfl) d

theorem encode_selectEnc (w : EncWord) : encode (selectEnc false w) = (.encIn, w.toNat) :=
  selectEnc_induct (P := fun w i => encode i = (.encIn, w.toNat)) (fun _ => rfl) encode_selectControl w

theorem encode_selectDec (sy : Sym) : encode (selectDec false sy) = (.decS, sy.toNat) := by
  cases h : validSym sy with
  | true => rw [selectDec_valid h, encode]
  | false => rw [selectDec_invalid h, encode]

theorem wf_selectControl (d : Byte) : (selectControl d).wf = true :=
  selectControl_induct (P := fun _ i => i.wf = true) (by decide +kernel) (fun d h => by simp [Instr.wf, h]) d

theorem wf_selectEnc (w : EncWord) : (selectEnc false w).wf = true :=
  selectEnc_induct (P := fun _ i => i.wf = true) (fun _ => rfl) wf_selectControl w

theorem wf_selectDec (sy : Sym) : (selectDec false sy).wf = true := by
  cases h : validSym sy with
  | true => rw [selectDec_valid h, Instr.wf, h]
  | false => rw [selectDec_invalid h, Instr.wf, h, Bool.not_false]

/-- The operations of the encoder are what its pins select (R62, R63). -/
theorem target_selectEnc (w : EncWord) : target (selectEnc false w) = some .enc :=
  selectEnc_induct (P := fun _ i => target i = some .enc) (fun _ => rfl)
    (selectControl_induct (P := fun _ i => target i = some .enc) (by decide +kernel) (fun _ _ => rfl)) w

/-- A word is accepted when it fits its port and its port gives it a meaning. -/
theorem decode_eq_ok_iff (p : Port) (w : Nat) (i : Instr) :
    decode p w = .ok i ↔ w < 2 ^ p.width ∧ decodeFitting p w = .ok i := by
  by_cases h : w < 2 ^ p.width
  · rw [decode_fitting h, and_iff_right h]
  · simp [decode_tooWide (Nat.le_of_not_lt h), h]

/-- The `rst` pin at 1 is its only accepted word (R62, R67). -/
theorem decodeFitting_rst_eq_ok_iff (n : Inst) (w : Nat) (i : Instr) :
    decodeFitting (.rst n) w = .ok i ↔ w = 1 ∧ i = .rst n := by
  by_cases h : w = 1 <;> simp [decodeFitting, h, eq_comm]

/-- Settles O2, by the port: encoding a selected operation gives the word that selected it. -/
theorem encodeOfDecodedWord : Obligations.EncodeOfDecodedWord := by
  intro p w i h
  obtain ⟨hfits, hi⟩ := (decode_eq_ok_iff p w i).1 h
  cases p with
  | encIn =>
    cases hi
    exact ⟨wf_selectEnc _, (encode_selectEnc _).trans (Prod.ext rfl (Nat.mod_eq_of_lt hfits))⟩
  | decS =>
    cases hi
    exact ⟨wf_selectDec _, (encode_selectDec _).trans (Prod.ext rfl (Nat.mod_eq_of_lt hfits))⟩
  | cdW =>
    cases hi
    exact ⟨rfl, Prod.ext rfl (Nat.mod_eq_of_lt hfits)⟩
  | rst n =>
    obtain ⟨rfl, rfl⟩ := (decodeFitting_rst_eq_ok_iff n w i).1 hi
    exact ⟨rfl, rfl⟩
  | disp a =>
    cases hi
    exact ⟨rfl, Prod.ext rfl (Nat.lt_one_iff.1 hfits).symm⟩

/-- Settles O3: the encoder words and raw words by evaluation, the two symbols by their membership in V. -/
theorem tableWordsDecode : Obligations.TableWordsDecode := by
  have hvalid : validSym 0x0FA#10 = true := (validSym_iff _).2 ⟨0xBC#8, true, .neg, rfl, rfl⟩
  have hzero : validSym 0x000#10 = false := Bool.eq_false_iff.2 fun h => absurd (delta_of_validSym h) (by decide +kernel)
  refine ⟨rfl, rfl, rfl, rfl, ?_, ?_, rfl, rfl, rfl⟩
  · exact (decode_decS 0x0FA#10).trans (congrArg _ (selectDec_valid hvalid))
  · exact (decode_decS 0x000#10).trans (congrArg _ (selectDec_invalid hzero))

/-- Settles O4, by the port: only the `rst` pin has a word that fits it and selects nothing. -/
theorem onlyPortWidthWordsDecode : Obligations.OnlyPortWidthWordsDecode := by
  refine ⟨fun p w => ⟨decode_tooWide, fun hfits hlow => ?_⟩, fun n => rfl⟩
  rw [decode_fitting hfits]
  cases p with
  | encIn | decS | cdW | disp => exact ⟨_, rfl⟩
  | rst n =>
    have hone : w = 1 := by
      have : w < 2 := hfits
      have := hlow n rfl
      omega
    exact ⟨.rst n, (decodeFitting_rst_eq_ok_iff n w _).2 ⟨hone, rfl⟩⟩

/-- Settles O5: the counts by evaluation over the 512 words, the owner by what a data byte and a control request select. -/
theorem encoderOperationCounts : Obligations.EncoderOperationCounts :=
  ⟨by decide +kernel, by decide +kernel, by decide +kernel, target_selectEnc⟩

/-- Settles O19: each side is the cycle of its side of the machine with that operand. -/
theorem operandDecidesOperation : Obligations.OperandDecidesOperation := by
  intro s d sy
  refine ⟨?_, ?_, (exec_selectDec sy s).symm, (exec_selectDec sy s).symm⟩
  · rw [selectEnc_encWord_control, exec_selectControl]
    rfl
  · rw [selectEnc_encWord_data]

end Sys2Proof
end

section
/-! PROOFS. The invariant of the registers, kept by every step, and that every step goes on (60_exceptions R154, R165). -/

namespace Sys2Proof.Machine

/-- Every next state of an operation keeps the invariant: the registers it loads meet it, the others are as they were. -/
theorem NextOf.inv {s t : State} (h : NextOf s t) (hs : s.Inv) : t.Inv := by
  obtain ⟨henc, hdec, hcd⟩ := hs
  cases h with
  | encoded v k hl => exact ⟨fun _ => .inr ⟨v, k, s.enc.rd, hl, Prod.mk.eta.symm⟩, hdec, hcd⟩
  | misused d => exact ⟨fun hm => absurd hm (by simp), hdec, hcd⟩
  | decoded sy v k hd =>
    rw [State.Inv, State.latchDec_enc, State.latchDec_cd]
    exact ⟨henc, ⟨fun hi => absurd hi (by simp), fun _ => (tableDec_some hd).1⟩, hcd⟩
  | invalid sy =>
    rw [State.Inv, State.drawDec_enc, State.drawDec_cd]
    exact ⟨henc, ⟨fun _ => rfl, fun hi => absurd hi (by simp)⟩, hcd⟩
  | searched w => exact ⟨henc, hdec, fun hp => absurd hp (by simp)⟩
  | resetEnc => exact ⟨fun _ => .inl ⟨rfl, rfl⟩, hdec, hcd⟩
  | resetDec => exact ⟨henc, ⟨fun _ => rfl, fun _ => rfl⟩, hcd⟩
  | resetCd => exact ⟨henc, hdec, fun _ => ⟨rfl, rfl⟩⟩
  | read a => exact ⟨henc, hdec, hcd⟩

/-- Fetching changes no register, so it keeps the invariant. -/
theorem fetch_inv {s : State} (h : s.Inv) : (fetch s).2.Inv := by
  obtain ⟨henc, hdec, hcd, -⟩ := fetch_registers s
  rwa [State.Inv, henc, hdec, hcd]

/-- Settles O48: fetching keeps the invariant, and so does each of the operations that the step runs. -/
theorem stepKeepsInvariant : Obligations.StepKeepsInvariant := fun _ _ hs hstep =>
  execAll_induct hstep (fetch_inv hs) fun _ _ _ hu hexec => (exec_cases hexec).inv hu

/-- Settles O49, by the reset values of each register. -/
theorem resetMeetsInvariant : Obligations.ResetMeetsInvariant :=
  ⟨fun _ => .inl ⟨rfl, rfl⟩, ⟨fun _ => rfl, fun _ => rfl⟩, fun _ => ⟨rfl, rfl⟩⟩

/-- Settles O43, since every operation goes on. -/
theorem everyStepGoesOn : Obligations.EveryStepGoesOn := fun _ => execAll_next _ _

end Sys2Proof.Machine
end

section
/-! PROOFS. Properties of the code (40_symbol_table R82 to R85, R89, R92, R93, R95): the RD after a symbol as a function of the
symbol, the printed table, run length and DC balance. -/

namespace Sys2Proof.Machine

/-! ## RD after a symbol -/

theorem RD.toInt_injective {a b : RD} (h : a.toInt = b.toInt) : a = b := by
  cases a <;> cases b
  case neg.neg | pos.pos => rfl
  all_goals exact absurd h (by decide)

/-- RD moved by two sub-blocks in turn is RD moved by their sum (R82). -/
theorem rdBySign_rdBySign {rd : RD} {d e : Int} (hd : BalancesRd rd d) (he : BalancesRd (rdBySign rd d) e) :
    rdBySign (rdBySign rd d) e = rdBySign rd (d + e) := by
  apply RD.toInt_injective
  rw [toInt_rdBySign he, toInt_rdBySign hd, toInt_rdBySign (hd.add he), Int.add_assoc]

/-- The RD after an encoding is the sign of the symbol's own delta, or the RD before (R82). -/
theorem tableEnc_rd (v : Byte) (k : Bool) (rd : RD) :
    (tableEnc v k rd).2 = rdBySign rd (delta (tableEnc v k rd).1) := by
  rw [tableEnc_sym, delta, disparity_append]
  exact rdBySign_rdBySign (balancesRd_enc6 _ _ _) (balancesRd_enc4 _ _ _ _)

theorem tableEnc_rd_toInt (v : Byte) (k : Bool) (rd : RD) :
    (tableEnc v k rd).2.toInt = rd.toInt + delta (tableEnc v k rd).1 := by
  rw [tableEnc_rd, toInt_rdBySign (balancesRd_tableEnc v k rd)]

/-- A disparity that balances RD either leaves it or flips it (R83). -/
theorem rdBySign_of_balancesRd {rd : RD} {d : Int} (h : BalancesRd rd d) :
    rdBySign rd d = if d = 0 then rd else rd.flip := by
  rcases h with rfl | rfl
  · rfl
  · cases rd <;> rfl

/-! ## The printed table

A property of all encodings is checked on the entries that the spec prints, which are numerals. -/

/-- The printed table (R60, R95): each of the 268 legal inputs with its symbols at RD- and at RD+. -/
def printedTable : List ((Byte × Bool) × Sym × Sym) :=
  ((List.range 256).map fun n => (BitVec.ofNat 8 n, false)).zip romData ++ romControl.map fun r => ((r.1, true), r.2)

/-- The inputs of the printed table are the legal inputs, and its symbols are their encodings. -/
theorem printedTable_eq :
    printedTable.map Prod.fst = legalInputs ∧
      printedTable.all (fun row =>
        row.2 == ((tableEnc row.1.1 row.1.2 .neg).1, (tableEnc row.1.1 row.1.2 .pos).1)) = true := by
  decide +kernel

/-- A property that the entries of the printed table have is one of every legal encoding. -/
theorem tableEnc_induct {P : Byte × Bool → RD → Sym → Prop} [∀ p rd s, Decidable (P p rd s)]
    (h : printedTable.all (fun row => P row.1 .neg row.2.1 ∧ P row.1 .pos row.2.2) = true) {v : Byte} {k : Bool}
    (hl : legal v k = true) (rd : RD) : P (v, k) rd (tableEnc v k rd).1 := by
  obtain ⟨hinputs, hsymbols⟩ := printedTable_eq
  have hmem : (v, k) ∈ printedTable.map Prod.fst := hinputs ▸ (mem_legalInputs (v, k)).2 hl
  obtain ⟨row, hrow, hinput⟩ := List.mem_map.1 hmem
  have hsym := eq_of_beq (List.all_eq_true.1 hsymbols row hrow)
  have hP := of_decide_eq_true (List.all_eq_true.1 h row hrow)
  rw [hsym, hinput] at hP
  cases rd with
  | neg => exact hP.1
  | pos => exact hP.2

/-- The sub-block code gives the symbols of the printed table (R95). -/
theorem tableEnc_eq_pick_romEntry {v : Byte} {k : Bool} (hl : legal v k = true) (rd : RD) :
    (tableEnc v k rd).1 = pick rd (romEntry v k) :=
  tableEnc_induct (P := fun p rd s => s = pick rd (romEntry p.1 p.2)) (by decide +kernel) hl rd

/-- Settles O12: the symbols are those of the printed table, and both ways the RD follows from the symbol. -/
theorem subBlockCodeEqualsFlatTable : Obligations.SubBlockCodeEqualsFlatTable := by
  intro v k rd hl
  rw [romEnc, ← tableEnc_eq_pick_romEntry hl, ← tableEnc_rd]

/-- Settles O10, by the injectivity that the sub-blocks give. -/
theorem encodingIsInjective : Obligations.EncodingIsInjective := fun _ _ _ _ _ _ => tableEnc_injective

/-- Settles O8: each count by evaluation over the bytes. -/
theorem encodingVariantCounts : Obligations.EncodingVariantCounts :=
  ⟨by decide +kernel, by decide +kernel, by decide +kernel, by decide +kernel⟩

/-! ## Runs of equal bits -/

/-- Bits `i` to `i + n - 1` of a pattern are all `b`. -/
abbrev Run {w : Nat} (p : BitVec w) (i n : Nat) (b : Bool) : Prop := ∀ j < n, p.getLsbD (i + j) = b

theorem Run.part {w : Nat} {p : BitVec w} {i n : Nat} {b : Bool} (h : Run p i n b) {i' n' : Nat} (hi : i ≤ i')
    (hn : i' + n' ≤ i + n) : Run p i' n' b := by
  intro j hj
  rw [show i' + j = i + (i' - i + j) by omega]
  exact h _ (by omega)

/-- A run within the low part of a pattern. -/
theorem Run.of_append_low {m n : Nat} {p : BitVec m} {q : BitVec n} {i l : Nat} {b : Bool} (h : Run (p ++ q) i l b)
    (hi : i + l ≤ n) : Run q i l b := by
  intro j hj
  rw [← h j hj, BitVec.getLsbD_append, if_pos (by omega)]

/-- A run within the high part of a pattern. -/
theorem Run.of_append_high {m n : Nat} {p : BitVec m} {q : BitVec n} {i l : Nat} {b : Bool}
    (h : Run (p ++ q) (n + i) l b) : Run p i l b := by
  intro j hj
  rw [← h j hj, BitVec.getLsbD_append, if_neg (by omega), Nat.add_assoc, Nat.add_sub_cancel_left]

/-- The bit that an encoder at this RD has sent less often (R123). -/
def lackingBit : RD → Bool
  | .neg => true
  | .pos => false

/-- The input is the control code K28.1, K28.5 or K28.7 (R136). -/
def isCommaCode (p : Byte × Bool) : Bool := p.2 && [0x3C#8, 0xBC#8, 0xFC#8].contains p.1

section
variable {v : Byte} {k : Bool} (hl : legal v k = true) (rd : RD)
include hl

/-- Five equal bits in a row are in the symbols of the comma codes alone, at bits 3 to 7 (R92, R136). -/
theorem run5_tableEnc {i : Nat} {b : Bool} (hi : i ≤ 5) (h : Run (tableEnc v k rd).1 i 5 b) :
    i = 3 ∧ isCommaCode (v, k) = true :=
  tableEnc_induct
    (P := fun p _ s => ∀ i ≤ 5, ∀ b, Run s i 5 b → i = 3 ∧ isCommaCode p = true) (by decide +kernel) hl rd i hi b h

/-- No symbol begins with four equal bits. -/
theorem not_run4_first (b : Bool) : ¬Run (tableEnc v k rd).1 6 4 b :=
  tableEnc_induct (P := fun _ _ s => ∀ b, ¬Run s 6 4 b) (by decide +kernel) hl rd b

/-- No symbol ends with four equal bits. -/
theorem not_run4_last (b : Bool) : ¬Run (tableEnc v k rd).1 0 4 b :=
  tableEnc_induct (P := fun _ _ s => ∀ b, ¬Run s 0 4 b) (by decide +kernel) hl rd b

/-- A symbol that begins with three equal bits begins with the bit its encoder lacks. -/
theorem run3_first {b : Bool} (h : Run (tableEnc v k rd).1 7 3 b) : b = lackingBit rd :=
  tableEnc_induct (P := fun _ rd s => ∀ b, Run s 7 3 b → b = lackingBit rd) (by decide +kernel) hl rd b h

/-- A symbol that ends with three equal bits ends with the bit its encoder does not lack afterwards. -/
theorem run3_last {b : Bool} (h : Run (tableEnc v k rd).1 0 3 b) : b ≠ lackingBit (tableEnc v k rd).2 := by
  rw [tableEnc_rd]
  exact tableEnc_induct (P := fun _ rd s => ∀ b, Run s 0 3 b → b ≠ lackingBit (rdBySign rd (delta s)))
    (by decide +kernel) hl rd b h

end

/-- No symbol holds six equal bits in a row, since five begin at bit 3 alone. -/
theorem not_run6_tableEnc {v : Byte} {k : Bool} (hl : legal v k = true) (rd : RD) {i : Nat} (hi : i ≤ 4) (b : Bool) :
    ¬Run (tableEnc v k rd).1 i 6 b := by
  intro h
  have hlow := run5_tableEnc hl rd (by omega) (h.part (Nat.le_refl i) (by omega))
  have hhigh := run5_tableEnc hl rd (by omega) (h.part (Nat.le_succ i) (by omega))
  omega

/-- No six equal bits in a row in two symbols sent in sequence (R92): no symbol holds six, and a run across the boundary has at
most three bits of each symbol, and three of one are not equal to three of the other. -/
theorem not_run6_pair {v₁ v₂ : Byte} {k₁ k₂ : Bool} {rd : RD} (h₁ : legal v₁ k₁ = true) (h₂ : legal v₂ k₂ = true)
    {i : Nat} (hi : i < 15) (b : Bool) :
    ¬Run ((tableEnc v₁ k₁ rd).1 ++ (tableEnc v₂ k₂ (tableEnc v₁ k₁ rd).2).1) i 6 b := by
  intro h
  have hfirst {l n : Nat} (hl : i ≤ 10 + l) (hn : 10 + l + n ≤ i + 6) : Run (tableEnc v₁ k₁ rd).1 l n b :=
    (h.part hl hn).of_append_high
  have hsecond {l n : Nat} (hl : i ≤ l) (hn : l + n ≤ i + 6) (hfits : l + n ≤ 10) :
      Run (tableEnc v₂ k₂ (tableEnc v₁ k₁ rd).2).1 l n b := (h.part hl hn).of_append_low hfits
  by_cases hhigh : 10 ≤ i
  · obtain ⟨l, rfl⟩ := Nat.exists_eq_add_of_le hhigh
    exact not_run6_tableEnc h₁ rd (by omega) b h.of_append_high
  obtain hlow | hmid | rfl | hmid : i ≤ 4 ∨ (5 ≤ i ∧ i ≤ 6) ∨ i = 7 ∨ (8 ≤ i ∧ i ≤ 9) := by omega
  · exact not_run6_tableEnc h₂ _ hlow b (h.of_append_low (by omega))
  · exact not_run4_first h₂ _ b (hsecond (by omega) (by omega) (by omega))
  · exact run3_last h₁ rd (hfirst (by omega) (by omega)) (run3_first h₂ _ (hsecond (by omega) (by omega) (by omega)))
  · exact not_run4_last h₁ rd b (hfirst (by omega) (by omega))

/-- Settles O13, since a window without a different bit is a run. -/
theorem noRunOfSixEqualBits : Obligations.NoRunOfSixEqualBits := by
  intro v₁ v₂ k₁ k₂ rd h₁ h₂ i hi
  by_contra hall
  push Not at hall
  exact not_run6_pair h₁ h₂ hi _ hall

/-! ## DC balance -/

@[simp] theorem encodeSeq_nil (rd : RD) : encodeSeq rd [] = ([], rd) := rfl

theorem encodeSeq_cons (rd : RD) (p : Byte × Bool) (ps : List (Byte × Bool)) :
    encodeSeq rd (p :: ps) =
      ((tableEnc p.1 p.2 rd).1 :: (encodeSeq (tableEnc p.1 p.2 rd).2 ps).1,
        (encodeSeq (tableEnc p.1 p.2 rd).2 ps).2) := rfl

/-- The deltas of a sequence sum to the change of RD, since each symbol moves RD by its delta (R93). -/
theorem sum_delta_encodeSeq (rd : RD) (ps : List (Byte × Bool)) :
    ((encodeSeq rd ps).1.map delta).sum = (encodeSeq rd ps).2.toInt - rd.toInt := by
  induction ps generalizing rd with
  | nil => simp
  | cons p ps ih =>
    have hrd := tableEnc_rd_toInt p.1 p.2 rd
    simp only [encodeSeq_cons, List.map_cons, List.sum_cons, ih]
    omega

theorem RD.toInt_eq (rd : RD) : rd.toInt = -1 ∨ rd.toInt = 1 := by
  cases rd with
  | neg => exact .inl rfl
  | pos => exact .inr rfl

/-- RD before a symbol, plus the ones and less the zeros of its first n bits (R129). -/
abbrev runningSum (rd : RD) (s : Sym) (n : Nat) : Int := rd.toInt + (2 * (popcount (s >>> (10 - n)) : Int) - n)

theorem runningSum_tableEnc {v : Byte} {k : Bool} (hl : legal v k = true) (rd : RD) {n : Nat} (hn : n < 11) :
    -3 ≤ runningSum rd (tableEnc v k rd).1 n ∧ runningSum rd (tableEnc v k rd).1 n ≤ 3 :=
  tableEnc_induct (P := fun _ rd s => ∀ n < 11, -3 ≤ runningSum rd s n ∧ runningSum rd s n ≤ 3) (by decide +kernel)
    hl rd n hn

/-- Settles O14: a sum of deltas is the difference of two RDs, and the sums within a symbol are checked on the table. -/
theorem dcBalance : Obligations.DcBalance := by
  refine ⟨fun rd ps _ => ?sums, fun v k rd hl n hn => runningSum_tableEnc hl rd (Nat.lt_succ_of_le hn)⟩
  have hsum := sum_delta_encodeSeq rd ps
  have hbefore := RD.toInt_eq rd
  have hafter := RD.toInt_eq (encodeSeq rd ps).2
  exact ⟨hsum, by omega⟩

end Sys2Proof.Machine
end

section
/-! PROOFS. The encoder's operations (41_encoder R97 to R104; 10_state R33): the RD they leave, the ghost bit, and runs of legal
inputs. -/

namespace Sys2Proof.Machine

/-! ## One legal input -/

/-- Settles O7: the encoder latches an encoding, whose delta balances RD, with the RD after it. -/
theorem encoderRdFollowsDelta : Obligations.EncoderRdFollowsDelta := by
  intro s w hw
  refine ⟨_, (exec_selectEnc w s).trans (encoderCycle_legal hw s), ?_, ?_⟩
  · exact tableEnc_rd_toInt _ _ _
  · exact balancesRd_tableEnc _ _ _

/-- The RD after an encoding: unchanged by a balanced symbol and flipped otherwise (R83). -/
theorem tableEnc_rd_eq_ite (v : Byte) (k : Bool) (rd : RD) :
    (tableEnc v k rd).2 = if delta (tableEnc v k rd).1 = 0 then rd else rd.flip :=
  (tableEnc_rd v k rd).trans (rdBySign_of_balancesRd (balancesRd_tableEnc v k rd))

/-- Settles O16: `ENC.D` latches the encoding and the RD after it, and `Dec` undoes `Enc`. -/
theorem encodeDataByte : Obligations.EncodeDataByte := by
  refine fun d s => ⟨?_, tableDec_tableEnc (legal_data d) _⟩
  rw [← tableEnc_rd_eq_ite]
  rfl

/-- A control code encodes as its two entries say, once the entries are known. -/
theorem encodesAs_of_tableEnc {i : Instr} {d : Byte} {atNeg atPos : Sym} {flips : Bool}
    (hexec : ∀ s, exec i s = encodeLegal d true s)
    (hneg : tableEnc d true .neg = (atNeg, if flips = true then .pos else .neg))
    (hpos : tableEnc d true .pos = (atPos, if flips = true then .neg else .pos)) : EncodesAs i atNeg atPos flips := by
  intro s
  rw [hexec, encodeLegal_eq, State.latchEnc]
  cases h : s.enc.rd with
  | neg => rw [hneg]; rfl
  | pos => rw [hpos]; rfl

/-- Settles O17, from the two entries of each code. -/
theorem encodeControlCodes : Obligations.EncodeControlCodes := by
  refine ⟨?_, ?_, ?_, ?_, ?_, ?_, ?_, ?_, ?_, ?_, ?_, ?_⟩ <;>
    exact encodesAs_of_tableEnc (fun _ => rfl) (by decide) (by decide)

/-! ## The ghost bit -/

/-- Settles O20: only `ENC.BADK` outside KSET sets the bit; the encoder's other operations and its reset leave it, and the
other operations do not change the encoder. -/
theorem misuseIsSticky : Obligations.MisuseIsSticky := by
  refine ⟨rfl, fun _ => rfl, fun i s => ?_⟩
  by_cases htarget : target i = some .enc
  case neg =>
    obtain ⟨t, ht, hc⟩ := exec_changesOnly i s
    refine ⟨t, ht, ?_⟩
    rw [hc.enc_eq htarget]
    cases i <;> simp [target] at htarget ⊢
  case pos =>
    cases i with
    | encD | encK28_0 | encK28_1 | encK28_2 | encK28_3 | encK28_4 | encK28_5 | encK28_6 | encK28_7 | encK23_7 | encK27_7
    | encK29_7 | encK30_7 => exact ⟨_, rfl, by simp⟩
    | encBadk d =>
      cases h : inKset d with
      | true => exact ⟨_, encoderCycle_legal (k := true) h s, by simp [h]⟩
      | false => exact ⟨_, encoderCycle_unsupported (k := true) h s, by simp [h]⟩
    | rst n =>
      cases htarget
      exact ⟨_, rfl, by simp⟩
    | dec | decInv | cdet | disp => cases htarget

/-! ## Runs of legal inputs -/

/-- The operations that present a sequence of inputs. -/
abbrev encOps (ps : List (Byte × Bool)) : List Instr := ps.map fun p => selectEnc false (encWord p.2 p.1)

/-- Along a sequence of legal inputs the encoder goes on as `Enc` does, holding the last symbol and the RD after it, and
nothing else changes in the registers (R47, R103). -/
theorem execAll_encOps {ps : List (Byte × Bool)} (hl : ∀ p ∈ ps, legal p.1 p.2 = true) (s : State) :
    ∃ t, execAll (encOps ps) s = .next t ∧ t.enc.q = (encodeSeq s.enc.rd ps).1.getLast?.getD s.enc.q ∧
      t.enc.rd = (encodeSeq s.enc.rd ps).2 ∧ t.enc.misuse = s.enc.misuse ∧ t.dec = s.dec ∧ t.cd = s.cd := by
  induction ps generalizing s with
  | nil => exact ⟨s, rfl, rfl, rfl, rfl, rfl, rfl⟩
  | cons p ps ih =>
    obtain ⟨hp, hps⟩ := List.forall_mem_cons.1 hl
    have hfirst : exec (selectEnc false (encWord p.2 p.1)) s =
        .next (s.latchEnc (tableEnc p.1 p.2 s.enc.rd).1 (tableEnc p.1 p.2 s.enc.rd).2) := by
      rw [exec_selectEnc, encWordK_encWord, encWordByte_encWord, encoderCycle_legal hp]
    obtain ⟨t, ht, hq, hrd, hmisuse, hdec, hcd⟩ :=
      ih hps (s.latchEnc (tableEnc p.1 p.2 s.enc.rd).1 (tableEnc p.1 p.2 s.enc.rd).2)
    rw [encodeSeq_cons]
    refine ⟨t, ?_, ?_, hrd, hmisuse, hdec, hcd⟩
    · rw [encOps, List.map_cons, execAll_cons, hfirst, andThen_next, ht]
    · rw [hq, List.getLast?_cons]
      rfl

theorem length_encodeSeq (rd : RD) (ps : List (Byte × Bool)) : (encodeSeq rd ps).1.length = ps.length := by
  induction ps generalizing rd with
  | nil => rfl
  | cons p ps ih => rw [encodeSeq_cons, List.length_cons, ih, List.length_cons]

/-- Settles O21: a sequence with a last input has a last symbol. -/
theorem encoderRunEmitsSequence : Obligations.EncoderRunEmitsSequence := by
  intro s ps p hl
  obtain ⟨t, ht, hq, hregs⟩ := execAll_encOps hl s
  refine ⟨t, ht, ?_, hregs⟩
  have hne : (encodeSeq s.enc.rd (ps ++ [p])).1 ≠ [] := by
    simp [← List.length_pos_iff_ne_nil, length_encodeSeq]
  rw [hq, List.getLast?_eq_some_getLast hne, Option.getD_some]

/-- Encoder words are the inputs they hold (R51). -/
theorem map_selectEnc (ws : List EncWord) :
    ws.map (selectEnc false) = encOps (ws.map fun w => (encWordByte w, encWordK w)) := by
  rw [encOps, List.map_map]
  exact List.map_congr_left fun w _ => by simp

/-- Settles O22: after a reset the encoder goes on as `Enc` from the reset values, in either state. -/
theorem resetThenSameInputsSameOutputs : Obligations.ResetThenSameInputsSameOutputs := by
  intro s₁ s₂ ws hws
  have hl : ∀ p ∈ ws.map (fun w => (encWordByte w, encWordK w)), legal p.1 p.2 = true := List.forall_mem_map.2 hws
  rw [map_selectEnc]
  obtain ⟨t₁, ht₁, hq₁, hrd₁, -⟩ := execAll_encOps hl s₁.resetEnc
  obtain ⟨t₂, ht₂, hq₂, hrd₂, -⟩ := execAll_encOps hl s₂.resetEnc
  exact ⟨t₁, t₂, ht₁, ht₂, hq₁.trans hq₂.symm, congrArg RD.toBit (hrd₁.trans hrd₂.symm)⟩

end Sys2Proof.Machine
end

section
/-! PROOFS. The decoder's operations (42_decoder R108, R109, R112, R115, R116, R119; 60_exceptions R151 to R153): the outcome of a
valid codeword, agreement with the encoder, and what the error conditions record. -/

namespace Sys2Proof.Machine

/-! ## A valid codeword -/

/-- The decoder cycle on an encoding gives its input (R109). -/
theorem decoderCycle_tableEnc {v : Byte} {k : Bool} (hl : legal v k = true) (rd : RD) (s : State) :
    decoderCycle (tableEnc v k rd).1 s = .next (s.latchDec (tableEnc v k rd).1 v k) :=
  decoderCycle_some (tableDec_tableEnc hl rd) s

/-- Settles O24: `Dec` undoes `Enc`, and the registers are those of a valid codeword. -/
theorem decodeValidCodeword : Obligations.DecodeValidCodeword := fun _ _ rd s hl => decoderCycle_tableEnc hl rd s

/-- Settles O27: neither branch of the decoder cycle reads the old outputs. -/
theorem decoderFlagsAreNotSticky : Obligations.DecoderFlagsAreNotSticky := by
  intro sy s d k inv derr
  obtain ⟨t, ht, -⟩ := exists_decoderCycle_flags sy s
  rw [exec_selectDec, exec_selectDec]
  refine ⟨⟨t, ht⟩, ?_⟩
  cases h : tableDec sy with
  | some p => rw [decoderCycle_some h, decoderCycle_some h]; rfl
  | none => rw [decoderCycle_none h, decoderCycle_none h]; rfl

/-! ## Agreement with the encoder -/

/-- An encoding at the decoder's RD raises no disparity error (R113). -/
theorem dispViolation_tableEnc {v : Byte} {k : Bool} (hl : legal v k = true) (rd : RD) :
    dispViolation (tableEnc v k rd).1 rd = false := by
  rw [dispViolation, Bool.not_eq_false', expected_iff]
  exact ⟨v, k, hl, rfl⟩

/-- At the RD of the encoding the decoder's next RD is the encoder's (R112). -/
theorem decNextRd_tableEnc (v : Byte) (k : Bool) (rd : RD) : decNextRd rd (tableEnc v k rd).1 = (tableEnc v k rd).2 :=
  (tableEnc_rd v k rd).symm

/-- Settles O28: the decoder is given the encoding of a legal input at its own RD. -/
theorem decoderTracksEncoder : Obligations.DecoderTracksEncoder := by
  intro s w hw hrd
  refine ⟨_, _, (exec_selectEnc w s).trans (encoderCycle_legal hw s),
    (exec_selectDec _ _).trans (decoderCycle_tableEnc hw s.enc.rd _), ?sameRd, rfl, rfl, rfl, rfl, ?noDispErr⟩
  case sameRd =>
    rw [State.latchDec_dec_rd, State.latchEnc_dec, hrd]
    exact decNextRd_tableEnc _ _ _
  case noDispErr =>
    rw [State.latchDec_dec_derr, State.latchEnc_dec, hrd]
    exact dispViolation_tableEnc hw _

/-- A disparity other than 0 decides the RD, whatever it was (R111). -/
theorem rdBySign_of_ne_zero {d : Int} (h : d ≠ 0) (rd₁ rd₂ : RD) : rdBySign rd₁ d = rdBySign rd₂ d := by
  rcases lt_or_gt_of_ne h with hneg | hpos
  · rw [rdBySign_of_neg hneg, rdBySign_of_neg hneg]
  · rw [rdBySign_of_pos hpos, rdBySign_of_pos hpos]

/-- Settles O29: the value does not depend on the decoder's RD, and an unbalanced symbol decides the RD. -/
theorem decoderConvergesOnUnbalancedSymbol : Obligations.DecoderConvergesOnUnbalancedSymbol := by
  intro v k rd s hl
  refine ⟨_, (exec_selectDec _ s).trans (decoderCycle_tableEnc hl rd s), rfl, rfl, rfl, fun hne => ?_, fun hzero => ?_⟩
  · rw [State.latchDec_dec_rd, decNextRd, tableEnc_rd]
    exact rdBySign_of_ne_zero hne _ _
  · rw [State.latchDec_dec_rd, decNextRd, hzero, rdBySign_zero]

/-! ## Error conditions -/

theorem decoderCondition_of_invalid {sy : Sym} (h : validSym sy = false) (rd : RD) :
    decoderCondition sy rd = some .invalidCodeword := if_pos h

/-- A valid codeword raises the disparity condition exactly when it sets `disp_err` (R113, R153). -/
theorem decoderCondition_of_valid {sy : Sym} (h : validSym sy = true) (rd : RD) :
    decoderCondition sy rd = if dispViolation sy rd = true then some .disparityError else none := by
  simp [decoderCondition, dispViolation, h]

/-- Settles O30: `ENC.BADK`, a valid and an invalid codeword show what their conditions say, and no other operation raises a
condition. -/
theorem conditionsAreRecorded : Obligations.ConditionsAreRecorded := by
  intro i s hwf
  cases i with
  | encD | encK28_0 | encK28_1 | encK28_2 | encK28_3 | encK28_4 | encK28_5 | encK28_6 | encK28_7 | encK23_7 | encK27_7
  | encK29_7 | encK30_7 | cdet | disp => exact ⟨_, rfl, by simp [condition, target]⟩
  | rst n => cases n <;> exact ⟨_, rfl, by simp [condition, target]⟩
  | encBadk d =>
    have hbyte : inKset d = false := by simpa [Instr.wf] using hwf
    exact ⟨_, encoderCycle_unsupported (k := true) hbyte s, by simp [condition, hbyte]⟩
  | dec sy =>
    obtain ⟨p, hp⟩ := Option.isSome_iff_exists.1 ((tableDec_isSome sy).trans hwf)
    refine ⟨_, decoderCycle_some hp s, ?_⟩
    rw [condition, decoderCondition_of_valid hwf]
    cases h : dispViolation sy s.dec.rd <;> simp [h, hp, target]
  | decInv sy =>
    have hsym : validSym sy = false := by simpa [Instr.wf] using hwf
    refine ⟨_, decoderCycle_none ((tableDec_none_iff sy).2 hsym) s, ?_⟩
    rw [condition, decoderCondition_of_invalid hsym]
    simp

end Sys2Proof.Machine
end

section
/-! PROOFS. Commas in encoded streams (44_comma_detector R136, R141 to R143): a comma pattern is two equal bits and five of the
other, and the runs of the code leave few places for it. -/

namespace Sys2Proof.Machine

/-! ## The shape of a comma -/

/-- A comma pattern begins with two equal bits and five of the other (R135). -/
theorem exists_run_of_isComma {w : Sym} (h : isComma w = true) : ∃ b, Run w 3 5 b ∧ Run w 8 2 (!b) := by
  have shape : ∀ w ∈ comma6, ∃ b, Run w 3 5 b ∧ Run w 8 2 (!b) := by decide +kernel
  exact shape w ((isComma_iff w).1 h)

/-- A run in window k of two words is a run of the two words, 10 - k bits higher (R134). -/
theorem Run.of_window {p c : Sym} {k i n : Nat} {b : Bool} (h : Run (window p c k) i n b) (hn : i + n ≤ 10) :
    Run (p ++ c) (10 - k + i) n b := by
  intro j hj
  rw [← h j hj, window, BitVec.getLsbD_setWidth, decide_eq_true (by omega), Bool.true_and, BitVec.getLsbD_ushiftRight,
    Nat.add_assoc]

/-! ## Commas on an aligned stream -/

theorem isCommaCode_iff (v : Byte) (k : Bool) :
    isCommaCode (v, k) = true ↔ k = true ∧ (v = 0x3C#8 ∨ v = 0xBC#8 ∨ v = 0xFC#8) := by
  simp [isCommaCode]

theorem isComma_tableEnc_of_isCommaCode {v : Byte} (h : v = 0x3C#8 ∨ v = 0xBC#8 ∨ v = 0xFC#8) (rd : RD) :
    isComma (tableEnc v true rd).1 = true := by
  rcases h with rfl | rfl | rfl <;> cases rd <;> decide +kernel

/-- Settles O34: a comma holds five equal bits in a row, which only these three codes do. -/
theorem commaCarriers : Obligations.CommaCarriers := by
  intro v k rd hl
  rw [← isCommaCode_iff]
  constructor
  · intro h
    obtain ⟨b, hrun, -⟩ := exists_run_of_isComma h
    exact (run5_tableEnc hl rd (by decide) hrun).2
  · intro h
    obtain ⟨rfl, hv⟩ := (isCommaCode_iff v k).1 h
    exact isComma_tableEnc_of_isCommaCode hv rd

/-- Settles O35: window 0 is the symbol itself, and the symbol decodes to its code. -/
theorem alignedCommaIsFoundAtBitZero : Obligations.AlignedCommaIsFoundAtBitZero := by
  intro v rd c s hv hprimed hprev
  have hpos : (commaFlags s.cd c).getLsbD 0 = true := by
    rw [commaFlags_primed hprimed, getLsbD_commaMatch _ _ (by decide), window_zero, hprev]
    exact isComma_tableEnc_of_isCommaCode hv rd
  have hlegal : legal v true = true := by rcases hv with rfl | rfl | rfl <;> rfl
  refine ⟨⟨_, exec_cdet c s, hpos, (anyComma_iff _).2 ⟨0, by decide, hpos⟩⟩, ?_⟩
  rw [hprev]
  exact ⟨_, decoderCycle_tableEnc hlegal rd s, rfl, rfl⟩

/-! ## Commas across the boundary of two symbols -/

section
variable {v : Byte} {k : Bool} (hl : legal v k = true) (rd : RD) {b : Bool}
include hl

/-- A symbol that ends with two equal bits and two of the other ends with the bit its encoder does not lack afterwards. -/
theorem run2_run2_last (h₂ : Run (tableEnc v k rd).1 2 2 (!b)) (h₀ : Run (tableEnc v k rd).1 0 2 b) :
    b ≠ lackingBit (tableEnc v k rd).2 := by
  rw [tableEnc_rd]
  exact tableEnc_induct
    (P := fun _ rd s => ∀ b, Run s 2 2 (!b) → Run s 0 2 b → b ≠ lackingBit (rdBySign rd (delta s)))
    (by decide +kernel) hl rd b h₂ h₀

/-- K28.7 alone ends with two equal bits and three of the other. -/
theorem run2_run3_last (h₃ : Run (tableEnc v k rd).1 3 2 (!b)) (h₀ : Run (tableEnc v k rd).1 0 3 b) :
    (v, k) = (0xFC#8, true) :=
  tableEnc_induct (P := fun p _ s => ∀ b, Run s 3 2 (!b) → Run s 0 3 b → p = (0xFC#8, true)) (by decide +kernel)
    hl rd b h₃ h₀

end

/-- A comma that straddles the boundary is in window 5, after K28.7: in the other windows its five equal bits would be a run
that no symbol holds, or three at the beginning of the second symbol that do not follow the first. -/
theorem straddling_comma {v₁ v₂ : Byte} {k₁ k₂ : Bool} {rd : RD} {k : Nat} (h₁ : legal v₁ k₁ = true)
    (h₂ : legal v₂ k₂ = true) (hpos : 1 ≤ k) (hk : k < 10)
    (hc : isComma (window (tableEnc v₁ k₁ rd).1 (tableEnc v₂ k₂ (tableEnc v₁ k₁ rd).2).1 k) = true) :
    k = 5 ∧ (v₁, k₁) = (0xFC#8, true) := by
  obtain ⟨b, hfive, htwo⟩ := exists_run_of_isComma hc
  replace hfive := hfive.of_window (by decide)
  replace htwo := htwo.of_window (by decide)
  have hfirst {l n : Nat} (hl : 13 ≤ 10 + l + k) (hn : l + n + k ≤ 8) : Run (tableEnc v₁ k₁ rd).1 l n b :=
    (hfive.part (by omega) (by omega)).of_append_high
  have hsecond {l n : Nat} (hl : 13 ≤ l + k) (hn : l + n + k ≤ 18) (hfits : l + n ≤ 10) :
      Run (tableEnc v₂ k₂ (tableEnc v₁ k₁ rd).2).1 l n b := (hfive.part (by omega) (by omega)).of_append_low hfits
  have hbefore (hk : k ≤ 8) : Run (tableEnc v₁ k₁ rd).1 (8 - k) 2 (!b) :=
    (htwo.part (by omega) (by omega)).of_append_high
  obtain hlow | rfl | rfl | rfl | rfl | hhigh : k ≤ 3 ∨ k = 4 ∨ k = 5 ∨ k = 6 ∨ k = 7 ∨ 8 ≤ k := by omega
  · have := run5_tableEnc h₁ rd (i := 3 - k) (by omega) (hfirst (by omega) (by omega))
    omega
  · exact absurd (hfirst (by decide) (by decide)) (not_run4_last h₁ rd b)
  · exact ⟨rfl, run2_run3_last h₁ rd (hbefore (by decide)) (hfirst (by decide) (by decide))⟩
  · have hlacks := run3_first h₂ _ (hsecond (by decide) (by decide) (by decide))
    exact absurd hlacks (run2_run2_last h₁ rd (hbefore (by decide)) (hfirst (by decide) (by decide)))
  · exact absurd (hsecond (by decide) (by decide) (by decide)) (not_run4_first h₂ _ b)
  · have := run5_tableEnc h₂ _ (i := 13 - k) (by omega) (hsecond (by omega) (by omega) (by omega))
    omega

/-- Settles O36: a data symbol is no comma, and none straddles two of them, since K28.7 is not data. -/
theorem noCommaBetweenDataSymbols : Obligations.NoCommaBetweenDataSymbols := by
  intro d₁ d₂ rd k hk
  rw [Bool.eq_false_iff]
  intro hc
  rcases Nat.eq_zero_or_pos k with rfl | hpos
  · rw [window_zero] at hc
    exact absurd ((commaCarriers d₁ false rd (legal_data d₁)).1 hc).1 Bool.false_ne_true
  · exact absurd (congrArg Prod.snd (straddling_comma (legal_data d₁) (legal_data d₂) hpos hk hc).2) Bool.false_ne_true

/-- The input whose symbol completes a comma after K28.7 (R142). -/
abbrev CompletesComma (p : Byte × Bool) (rd : RD) : Prop :=
  (rd = .neg ∧ ((p.2 = false ∧ (codeX p.1 = 12#5 ∨ codeX p.1 = 20#5)) ∨ codeX p.1 = 28#5)) ∨
    (rd = .pos ∧ ((p.2 = false ∧ (codeX p.1 = 3#5 ∨ codeX p.1 = 11#5 ∨ codeX p.1 = 19#5)) ∨
      (p.2 = true ∧ codeX p.1 = 28#5)))

/-- K28.7 leaves RD as it was (R100). -/
theorem tableEnc_K28_7 (rd : RD) : tableEnc 0xFC#8 true rd = (pick rd (0x0F8#10, 0x307#10), rd) := by
  cases rd <;> decide +kernel

theorem isComma_window_K28_7_iff {v : Byte} {k : Bool} (hl : legal v k = true) (rd : RD) :
    isComma (window (pick rd (0x0F8#10, 0x307#10)) (tableEnc v k rd).1 5) = true ↔ CompletesComma (v, k) rd :=
  tableEnc_induct
    (P := fun p rd s => isComma (window (pick rd (0x0F8#10, 0x307#10)) s 5) = true ↔ CompletesComma p rd)
    (by decide +kernel) hl rd

/-- Settles O37: a straddling comma follows K28.7 in window 5, where each next symbol is checked; the windows of the eight
families are evaluated. -/
theorem straddlingCommasFollowK28_7 : Obligations.StraddlingCommasFollowK28_7 := by
  refine ⟨fun v₁ v₂ k₁ k₂ rd k h₁ h₂ hpos hk => ⟨fun hc => ?_, ?_⟩, by decide +kernel⟩
  · obtain ⟨rfl, hfirst⟩ := straddling_comma h₁ h₂ hpos hk hc
    cases hfirst
    rw [tableEnc_K28_7] at hc
    exact ⟨rfl, rfl, rfl, (isComma_window_K28_7_iff h₂ rd).1 hc⟩
  · rintro ⟨rfl, rfl, rfl, hnext⟩
    rw [tableEnc_K28_7]
    exact (isComma_window_K28_7_iff h₂ rd).2 hnext

end Sys2Proof.Machine
end

section
/-! PROOFS. Independence of the instances (00_scope R9; 10_state R18; 43_disparity_state_machine R131): an operation
of one of them is an update of its own registers, and what a cycle does follows. -/

namespace Sys2Proof.Machine

/-! ## Updates of one instance -/

/-- A function of the registers of one instance. -/
inductive Update : Inst → Type where
  | enc (f : EncState → EncState) : Update .enc
  | dec (f : DecState → DecState) : Update .dec
  | cd (f : CdState → CdState) : Update .cd

/-- Update the registers in a state. -/
def Update.apply {n : Inst} (u : Update n) (s : State) : State :=
  match u with
  | .enc f => { s with enc := f s.enc }
  | .dec f => { s with dec := f s.dec }
  | .cd f => { s with cd := f s.cd }

/-- What an operation on states does to the encoder's registers, when nothing else is in the state. -/
def Update.ofEnc (op : State → State) : Update .enc := .enc fun e => (op { State.reset with enc := e }).enc

/-- What an operation on states does to the decoder's registers, when nothing else is in the state. -/
def Update.ofDec (op : State → State) : Update .dec := .dec fun d => (op { State.reset with dec := d }).dec

/-- What an operation on states does to the comma detector's registers, when nothing else is in the state. -/
def Update.ofCd (op : State → State) : Update .cd := .cd fun c => (op { State.reset with cd := c }).cd

/-- Updates of different instances commute (R18). -/
theorem Update.apply_comm {m n : Inst} (u : Update m) (v : Update n) (h : m ≠ n) (s : State) :
    u.apply (v.apply s) = v.apply (u.apply s) := by
  cases u <;> cases v
  case enc.enc | dec.dec | cd.cd => exact absurd rfl h
  all_goals rfl

theorem encodeLegal_eq_apply (v : Byte) (k : Bool) : ∃ u : Update .enc, ∀ s, encodeLegal v k s = .next (u.apply s) :=
  ⟨.ofEnc fun s => s.latchEnc (tableEnc v k s.enc.rd).1 (tableEnc v k s.enc.rd).2, fun _ => rfl⟩

theorem encoderCycle_eq_apply (v : Byte) (k : Bool) : ∃ u : Update .enc, ∀ s, encoderCycle v k s = .next (u.apply s) := by
  cases h : legal v k with
  | true =>
    obtain ⟨u, hu⟩ := encodeLegal_eq_apply v k
    exact ⟨u, fun s => by rw [encoderCycle, if_pos h, hu]⟩
  | false => exact ⟨.ofEnc fun s => s.drawEnc v, encoderCycle_unsupported h⟩

theorem decoderCycle_eq_apply (sy : Sym) : ∃ u : Update .dec, ∀ s, decoderCycle sy s = .next (u.apply s) := by
  cases h : tableDec sy with
  | some p => exact ⟨.ofDec fun s => s.latchDec sy p.1 p.2, decoderCycle_some h⟩
  | none => exact ⟨.ofDec fun s => s.drawDec sy, decoderCycle_none h⟩

theorem execRst_eq_apply (n : Inst) : ∃ u : Update n, ∀ s, execRst n s = .next (u.apply s) := by
  cases n with
  | enc => exact ⟨.ofEnc State.resetEnc, fun _ => rfl⟩
  | dec => exact ⟨.ofDec State.resetDec, fun _ => rfl⟩
  | cd => exact ⟨.ofCd State.resetCd, fun _ => rfl⟩

/-- Every operation of an instance is an update of its registers, the same in every state (R18). -/
theorem exec_eq_apply {i : Instr} {n : Inst} (h : target i = some n) :
    ∃ u : Update n, ∀ s, exec i s = .next (u.apply s) := by
  cases i with
  | encD | encK28_0 | encK28_1 | encK28_2 | encK28_3 | encK28_4 | encK28_5 | encK28_6 | encK28_7 | encK23_7 | encK27_7
  | encK29_7 | encK30_7 =>
    cases h
    exact encodeLegal_eq_apply _ _
  | encBadk d =>
    cases h
    exact encoderCycle_eq_apply d true
  | dec sy | decInv sy =>
    cases h
    exact decoderCycle_eq_apply sy
  | cdet w =>
    cases h
    exact ⟨.ofCd fun s => s.latchCd w, fun _ => rfl⟩
  | rst =>
    cases h
    exact execRst_eq_apply n
  | disp => cases h

/-- Settles O46, since the two operations are updates of different instances. -/
theorem instancesCommute : Obligations.InstancesCommute := by
  intro i j s a b hi hj hab
  obtain ⟨u, hu⟩ := exec_eq_apply hi
  obtain ⟨v, hv⟩ := exec_eq_apply hj
  simp only [execAll_cons, execAll_nil, andThen_next, hu, hv, u.apply_comm v hab]

/-- Settles O47, since the operation applies one update in both states. -/
theorem instanceDependsOnItselfAlone : Obligations.InstanceDependsOnItselfAlone := by
  intro i s₁ s₂ t₁ t₂ h₁ h₂
  refine ⟨fun htarget hregs => ?_, fun htarget hregs => ?_, fun htarget hregs => ?_⟩
  all_goals
    obtain ⟨u, hu⟩ := exec_eq_apply htarget
    cases (hu s₁).symm.trans h₁
    cases (hu s₂).symm.trans h₂
    cases u with | _ f => exact congrArg f hregs

/-! ## A cycle -/

theorem EncPins.target_op (p : EncPins) (s : State) : target (p.op s) = some .enc := by
  have hselect (r : Bool) (w : EncWord) : target (selectEnc r w) = some .enc := by
    cases r with
    | true => rfl
    | false => exact target_selectEnc w
  cases p <;> exact hselect _ _

theorem LinePins.target_decOp (p : LinePins) (s : State) : target (p.decOp s) = some .dec := by
  have hselect (r : Bool) (sy : Sym) : target (selectDec r sy) = some .dec := by
    rw [selectDec]
    split
    · rfl
    · split <;> rfl
  cases p <;> exact hselect _ _

theorem LinePins.target_cdOp (p : LinePins) (s : State) : target (p.cdOp s) = some .cd := by
  have hselect (r : Bool) (w : Sym) : target (selectCd r w) = some .cd := by cases r <;> rfl
  cases p <;> exact hselect _ _

/-- The update is what the operation of one instance does, or nothing where that instance has no edge. -/
def Update.Runs {n : Inst} (u : Update n) (o : Option Instr) : Prop := ∀ s, execAll o.toList s = .next (u.apply s)

theorem Update.Runs.exec_eq {n : Inst} {u : Update n} {o : Option Instr} {i : Instr} (h : u.Runs o) (ho : o = some i)
    (s : State) : exec i s = .next (u.apply s) := by
  rw [← execAll_singleton, ← h s, ho]
  rfl

theorem Update.Runs.apply_eq_self {n : Inst} {u : Update n} {o : Option Instr} (h : u.Runs o) (ho : o = none)
    (s : State) : u.apply s = s := by
  have hnext : (.next s : Result) = .next (u.apply s) := by
    rw [← h s, ho]
    rfl
  exact (Host.Outcome.next.inj hnext).symm

theorem exists_update_runs {n : Inst} {Pins : Type} (o : Option Pins) {op : Pins → Instr}
    (h : ∀ p, target (op p) = some n) : ∃ u : Update n, u.Runs (o.map op) := by
  cases o with
  | some p =>
    obtain ⟨u, hu⟩ := exec_eq_apply (h p)
    exact ⟨u, fun s => (execAll_singleton (op p) s).trans (hu s)⟩
  | none =>
    cases n with
    | enc => exact ⟨.enc id, fun _ => rfl⟩
    | dec => exact ⟨.dec id, fun _ => rfl⟩
    | cd => exact ⟨.cd id, fun _ => rfl⟩

/-- One update of each instance: its registers are those of its own update, and nothing else changes. -/
theorem apply_cd_apply_dec_apply_enc (e : Update .enc) (d : Update .dec) (r : Update .cd) (s : State) (m : Nat) :
    r.apply (d.apply (e.apply { s with cycle := m })) =
      { s with enc := (e.apply s).enc, dec := (d.apply s).dec, cd := (r.apply s).cd, cycle := m } := by
  cases e
  cases d
  cases r
  rfl

/-- A cycle gives each instance the registers that its update gives on the state before the edge (R9). -/
theorem step_present_cycle (s : State) (c : Cycle) :
    ∃ (e : Update .enc) (d : Update .dec) (r : Update .cd),
      e.Runs (c.enc.map fun p => p.op s) ∧ d.Runs (c.dec.map fun p => p.decOp s) ∧ r.Runs (c.cd.map fun p => p.cdOp s) ∧
        step (s.present (.cycle c)) = .next
          { s with enc := (e.apply s).enc, dec := (d.apply s).dec, cd := (r.apply s).cd, cycle := s.cycle + 1 } := by
  obtain ⟨e, he⟩ := exists_update_runs c.enc fun p => p.target_op s
  obtain ⟨d, hd⟩ := exists_update_runs c.dec fun p => p.target_decOp s
  obtain ⟨r, hr⟩ := exists_update_runs c.cd fun p => p.target_cdOp s
  refine ⟨e, d, r, he, hd, hr, ?_⟩
  rw [step_eq, fetch_cycle, Cycle.ops_eq, execAll_append, execAll_append, he, andThen_next, hd, andThen_next, hr,
    apply_cd_apply_dec_apply_enc]

/-- Settles O44: the update of each instance is what its operation does alone, and none where it has no edge. -/
theorem cycleReadsValuesFromBeforeTheEdge : Obligations.CycleReadsValuesFromBeforeTheEdge := by
  intro s c
  obtain ⟨e, d, r, he, hd, hr, hstep⟩ := step_present_cycle s c
  refine ⟨_, hstep, fun p hp => ⟨_, he.exec_eq (by rw [hp]; rfl) s, rfl⟩,
    fun p hp => ⟨_, hd.exec_eq (by rw [hp]; rfl) s, rfl⟩, fun p hp => ⟨_, hr.exec_eq (by rw [hp]; rfl) s, rfl⟩,
    fun hnone => ?_, fun hnone => ?_, fun hnone => ?_, rfl, rfl, rfl⟩
  · rw [he.apply_eq_self (by rw [hnone]; rfl)]
  · rw [hd.apply_eq_self (by rw [hnone]; rfl)]
  · rw [hr.apply_eq_self (by rw [hnone]; rfl)]

/-! ## A word presented to one port -/

/-- The `rst` pin of an instance at 1 clocks that instance only, and resets it (R62). -/
theorem step_present_rst (s : State) (n : Inst) (w : Nat) :
    step (s.present (portEvent (.rst n) w)) = exec (.rst n) { s with cycle := s.cycle + 1 } := by
  cases n <;> exact step_present_of_ops rfl

/-- Settles O42, by the port: the event of a word clocks the port's instance with that word on its pins. -/
theorem stepRunsPresentedOperation : Obligations.StepRunsPresentedOperation := by
  refine ⟨fun s p w i h => ?word, fun s hempty => ?nothing⟩
  case word =>
    have hi := ((decode_eq_ok_iff p w i).1 h).2
    cases p with
    | encIn | decS | cdW =>
      cases hi
      exact step_present_of_ops rfl
    | rst n =>
      obtain ⟨-, rfl⟩ := (decodeFitting_rst_eq_ok_iff n w i).1 hi
      exact step_present_rst s n w
    | disp a =>
      cases hi
      exact step_read s a
  case nothing => rw [step_eq, fetch_empty hempty, step_eq, fetch_cycle]

end Sys2Proof.Machine
end

section
/-! PROOFS. Joint reset, accessors and the loopback (70_reset_and_hazards R167, R177; 43_disparity_state_machine R126; 42_decoder
R118). In the loopback the decoder is one symbol behind the encoder: its RD is the one at which the encoder emitted the
symbol it now shows. -/

namespace Sys2Proof.Machine

/-! ## Joint reset and accessors -/

/-- The state after a cycle that resets all three instances (R167, R177). -/
def State.afterJointReset (s : State) : State := { s with cycle := s.cycle + 1 }.resetEnc.resetDec.resetCd

@[simp] theorem State.afterJointReset_pending (s : State) : s.afterJointReset.pending = s.pending := rfl

/-- The step of a joint reset resets each instance, whatever else is on the pins (R167). -/
theorem step_jointReset (s : State) (w : EncWord) (sy r : Sym) :
    step (s.present (jointReset w sy r)) = .next s.afterJointReset := by
  rw [jointReset, step_eq, fetch_cycle]
  rfl

/-- Settles O39, from the reset values that each reset loads. -/
theorem everyRegisterHasItsResetValue : Obligations.EveryRegisterHasItsResetValue :=
  ⟨fun s w sy r => ⟨_, step_jointReset s w sy r, rfl, rfl, rfl, rfl, rfl, rfl, rfl, rfl, rfl, rfl, rfl⟩,
    rfl, rfl, rfl, rfl, rfl, rfl, rfl, rfl, rfl, rfl, rfl⟩

theorem toBit_eq_ite (rd : RD) : rd.toBit = if rd = .neg then 0#1 else 1#1 := by cases rd <;> rfl

/-- Settles O40: an accessor shows the bit of its RD register, which a reset clears. -/
theorem accessorShowsRd : Obligations.AccessorShowsRd := by
  intro s
  simp only [← toBit_eq_ite]
  exact ⟨rfl, rfl, rfl, rfl, ⟨_, exec_rst_enc s, rfl⟩, ⟨_, exec_rst_dec s, rfl⟩⟩

/-! ## The loopback -/

/-- A loopback cycle runs the encoder on its word and the decoder on the symbol from before the edge, each alone (R48). -/
theorem step_loopback (s : State) (w : EncWord) (c : Option LinePins) :
    ∃ t u v, step (s.present (loopback w c)) = .next t ∧ t.pending = s.pending ∧
      encoderCycle (encWordByte w) (encWordK w) s = .next u ∧ t.enc = u.enc ∧
      decoderCycle s.enc.q s = .next v ∧ t.dec = v.dec := by
  obtain ⟨t, ht, henc, hdec, -, -, -, -, hpending, -⟩ :=
    cycleReadsValuesFromBeforeTheEdge s ⟨some (.driven false w), some (.driven false .encOut), c⟩
  obtain ⟨u, hu, htu⟩ := henc _ rfl
  obtain ⟨v, hv, htv⟩ := hdec _ rfl
  exact ⟨t, u, v, ht, hpending, (exec_selectEnc w s).symm.trans hu, htu, (exec_selectDec _ s).symm.trans hv, htv⟩

/-- The decoder is one symbol behind: once it has taken the symbol that the encoder shows, it is at the encoder's RD. -/
def State.OneBehind (s : State) : Prop := decNextRd s.dec.rd s.enc.q = s.enc.rd

/-- In a loopback cycle with a legal word, the encoder emits the encoding at the RD that the decoder takes over. -/
theorem step_loopback_legal {s : State} {w : EncWord} (hw : legalWord w = true) (hs : s.OneBehind)
    (c : Option LinePins) :
    ∃ t, step (s.present (loopback w c)) = .next t ∧ t.pending = s.pending ∧ t.OneBehind ∧
      t.enc.q = (tableEnc (encWordByte w) (encWordK w) t.dec.rd).1 := by
  obtain ⟨t, u, v, ht, hpending, hu, htu, hv, htv⟩ := step_loopback s w c
  have hrd : t.dec.rd = s.enc.rd := by
    obtain ⟨v', hv', hnext, -⟩ := exists_decoderCycle_flags s.enc.q s
    cases hv.symm.trans hv'
    rw [htv, hnext, hs]
  cases hu.symm.trans (encoderCycle_legal hw s)
  refine ⟨t, ht, hpending, ?_, ?_⟩
  · rw [State.OneBehind, hrd, htu, State.latchEnc_enc_q, State.latchEnc_enc_rd]
    exact decNextRd_tableEnc _ _ _
  · rw [hrd, htu, State.latchEnc_enc_q]

/-- The decoder shows this input without an error flag. -/
structure State.Shows (s : State) (v : Byte) (k : Bool) : Prop where
  value : s.ports.decD = v
  flag : s.ports.decK = k
  valid : s.ports.decInvalid = false
  inDisparity : s.ports.decDispErr = false

/-- When the decoder is at the RD of the symbol on the wire, the next loopback cycle shows its input, whatever the encoder's
word. -/
theorem step_loopback_shows {s : State} {v : Byte} {k : Bool} (hl : legal v k = true)
    (hq : s.enc.q = (tableEnc v k s.dec.rd).1) (w : EncWord) (c : Option LinePins) :
    ∃ t, step (s.present (loopback w c)) = .next t ∧ t.Shows v k := by
  obtain ⟨t, u, v', ht, -, -, -, hv, htv⟩ := step_loopback s w c
  rw [hq] at hv
  cases hv.symm.trans (decoderCycle_tableEnc hl s.dec.rd s)
  refine ⟨t, ht, ?_, ?_, ?_, ?_⟩ <;> simp only [State.ports, htv]
  case refine_4 => exact dispViolation_tableEnc hl _
  all_goals rfl

/-- A state in which an event is presented is one to which it is presented. -/
theorem exists_eq_present {s : State} {e : Event} {es : List Event} (h : s.pending = e :: es) :
    ∃ r : State, s = r.present e ∧ r.pending = es :=
  ⟨{ s with pending := es }, by rw [State.present, ← h], rfl⟩

/-- A run of loopback cycles with legal words, and one more cycle, show the last legal word (R118). -/
theorem stepN_loopback {ws : List (EncWord × Option LinePins)} {x y : EncWord × Option LinePins} {es : List Event}
    (hl : ∀ w ∈ ws ++ [x], legalWord w.1 = true) {s : State} (hs : s.OneBehind)
    (hp : s.pending = (ws ++ [x, y]).map (fun w => loopback w.1 w.2) ++ es) :
    ∃ t, stepN (ws.length + 2) s = .next t ∧ t.Shows (encWordByte x.1) (encWordK x.1) := by
  induction ws generalizing s with
  | nil =>
    have hx : legalWord x.1 = true := hl x List.mem_cons_self
    obtain ⟨r, rfl, hr⟩ := exists_eq_present hp
    obtain ⟨t, ht, htr, -, hq⟩ := step_loopback_legal (s := r) hx hs x.2
    obtain ⟨r', rfl, -⟩ := exists_eq_present (htr.trans hr)
    obtain ⟨u, hu, hshows⟩ := step_loopback_shows (s := r') hx hq y.1 y.2
    exact ⟨u, (stepN_of_next 1 ht).trans (stepN_of_next 0 hu), hshows⟩
  | cons w ws ih =>
    obtain ⟨hw, hws⟩ := List.forall_mem_cons.1 hl
    obtain ⟨r, rfl, hr⟩ := exists_eq_present hp
    obtain ⟨t, ht, htr, hbehind, -⟩ := step_loopback_legal (s := r) hw hs w.2
    obtain ⟨u, hu, hshows⟩ := ih hws hbehind (htr.trans hr)
    exact ⟨u, (stepN_of_next _ ht).trans hu, hshows⟩

theorem State.presentAll_cons (s : State) (e : Event) (es : List Event) :
    s.presentAll (e :: es) = (s.presentAll es).present e := rfl

/-- After a joint reset the decoder is one symbol behind: the 0 on the wire leaves its RD at -1 (R111, R177). -/
theorem State.oneBehind_afterJointReset (s : State) : s.afterJointReset.OneBehind := by
  have hzero : decNextRd .neg 0#10 = .neg := by decide
  exact hzero

/-- Settles O50: after the joint reset the decoder is one symbol behind, and each loopback cycle keeps it so. -/
theorem loopbackRoundTrip : Obligations.LoopbackRoundTrip := by
  intro s w₀ sy₀ r₀ ws x y hl
  have hpending := s.presentAll_pending ((ws ++ [x, y]).map fun w => loopback w.1 w.2)
  obtain ⟨t, ht, hshows⟩ := stepN_loopback hl (State.oneBehind_afterJointReset _)
    ((State.afterJointReset_pending _).trans hpending)
  refine ⟨t, ?_, hshows.value, hshows.flag, hshows.valid, hshows.inDisparity⟩
  rw [State.presentAll_cons, stepN_of_next _ (step_jointReset _ w₀ sy₀ r₀), ht]

theorem validSym_zero : validSym 0#10 = false := Bool.eq_false_iff.2 fun h => absurd (delta_of_validSym h) (by decide)

/-- Settles O51: the first cycle decodes the 0 that the reset encoder shows. -/
theorem loopbackSkew : Obligations.LoopbackSkew := by
  intro s w₀ w₁ sy₀ r₀ c
  obtain ⟨t, _, v, ht, -, -, -, hv, htv⟩ := step_loopback s.afterJointReset w₁ c
  obtain ⟨v', hv', hrd, hinv, hderr⟩ := exists_decoderCycle_flags 0#10 s.afterJointReset
  cases hv.symm.trans hv'
  refine ⟨_, t, step_jointReset (s.present (loopback w₁ c)) w₀ sy₀ r₀, ht, rfl, rfl, rfl, rfl, rfl, rfl, ?_, ?_, ?_⟩
  · rw [State.ports, htv, hinv, validSym_zero]
    rfl
  · rw [State.ports, htv, hderr, validSym_zero]
    rfl
  · have hneg : decNextRd s.afterJointReset.dec.rd 0#10 = .neg := s.oneBehind_afterJointReset
    rw [State.ports, State.dispBit_dec, htv, hrd, hneg]
    rfl

end Sys2Proof.Machine
end

section
/-! PROOFS. Runs and observations (70_reset_and_hazards R184): a cycle always ends and advances the cycle index, and neither the
ports nor a step depend on what an accessor read recorded. -/

namespace Sys2Proof.Machine

/-! ## Every cycle ends -/

/-- The operations of a step do not change the cycle index (R183). -/
theorem execAll_cycle {is : List Instr} {s t : State} (h : execAll is s = .next t) : t.cycle = s.cycle := by
  refine execAll_induct (R := fun v => v.cycle = s.cycle) h rfl fun i u v hu hv => ?_
  obtain ⟨v', hv', hc⟩ := exec_changesOnly i u
  cases hv.symm.trans hv'
  exact hc.cycle_eq.trans hu

/-- A step that is a cycle advances the cycle index by one. -/
theorem exists_step_cycle {s : State} (h : leadingReads s.pending = 0) :
    ∃ t, step s = .next t ∧ t.cycle = s.cycle + 1 := by
  have hfetch : (fetch s).2.cycle = s.cycle + 1 := by
    rw [fetch]
    match hp : s.pending with
    | [] => rfl
    | .cycle _ :: _ => rfl
    | .read a :: es => simp [hp] at h
  obtain ⟨t, ht⟩ := execAll_next (fetch s).1 (fetch s).2
  exact ⟨t, ht, (execAll_cycle ht).trans hfetch⟩

/-- A cycle, with the reads presented before it, goes on and advances the cycle index by one (R183, R184). -/
theorem exists_runCycle (s : State) : ∃ t, runCycle s = .next t ∧ t.cycle = s.cycle + 1 := by
  induction h : leadingReads s.pending generalizing s with
  | zero =>
    rw [runCycle_of_no_read h]
    exact exists_step_cycle h
  | succ n ih =>
    match hp : s.pending with
    | [] | .cycle _ :: _ => simp [hp] at h
    | .read a :: es =>
      obtain ⟨r, rfl, rfl⟩ := exists_eq_present hp
      rw [runCycle_read]
      exact ih (r.readDisp a) (Nat.succ.inj h)

theorem exists_runCycles (n : Nat) (s : State) : ∃ t, runCycles n s = .next t ∧ t.cycle = s.cycle + n := by
  induction n generalizing s with
  | zero => exact ⟨s, rfl, rfl⟩
  | succ n ih =>
    obtain ⟨u, hu, hcycle⟩ := exists_runCycle s
    obtain ⟨t, ht, hcycles⟩ := ih u
    exact ⟨t, by rw [runCycles_succ, hu, andThen_next, ht], by omega⟩

/-! ## The observation -/

theorem length_observe (n : Nat) (s : State) : (observe n s).length = n := by
  induction n generalizing s with
  | zero => rfl
  | succ n ih =>
    obtain ⟨t, ht, -⟩ := exists_runCycle s
    rw [observe_of_next n ht, List.length_cons, ih]

/-- Entry k of an observation is what the ports show after k cycles (R184). -/
theorem getElem?_observe {n k : Nat} {s t : State} (hk : k < n) (h : runCycles k s = .next t) :
    (observe n s)[k]? = some t.ports := by
  induction k generalizing n s with
  | zero =>
    obtain ⟨m, rfl⟩ := Nat.exists_eq_add_of_lt hk
    obtain ⟨u, hu, -⟩ := exists_runCycle s
    rw [observe_of_next _ hu, List.getElem?_cons_zero]
    cases h
    rfl
  | succ k ih =>
    obtain ⟨m, rfl⟩ := Nat.exists_eq_add_of_lt hk
    obtain ⟨u, hu, ht⟩ := andThen_eq_next.1 h
    rw [observe_of_next _ hu, List.getElem?_cons_succ]
    exact ih (by omega) ht

/-! ## The reader's field is not observable -/

/-- The second state is the first but for what the last accessor read recorded (log entry 5). -/
def AgreeButReading (s t : State) : Prop := ∃ r, t = { s with reading := r }

/-- Two outcomes go on, to states that agree but for the reader's field. -/
def GoOnAlike (x y : Result) : Prop := ∃ s t, x = .next s ∧ y = .next t ∧ AgreeButReading s t

theorem GoOnAlike.andThen {x y : Result} {f : State → Result} (h : GoOnAlike x y)
    (hf : ∀ s t, AgreeButReading s t → GoOnAlike (f s) (f t)) : GoOnAlike (andThen x f) (andThen y f) := by
  obtain ⟨s, t, rfl, rfl, hst⟩ := h
  exact hf s t hst

/-- No operation but `DISP` reads or writes the reader's field, and `DISP` overwrites it. -/
theorem exec_goOnAlike (i : Instr) {s t : State} (h : AgreeButReading s t) : GoOnAlike (exec i s) (exec i t) := by
  obtain ⟨r, rfl⟩ := h
  cases htarget : target i with
  | some n =>
    obtain ⟨u, hu⟩ := exec_eq_apply htarget
    exact ⟨_, _, hu s, hu _, r, by cases u <;> rfl⟩
  | none =>
    obtain ⟨a, rfl⟩ := (target_eq_none_iff i).1 htarget
    exact ⟨_, _, rfl, rfl, _, rfl⟩

theorem execAll_goOnAlike (is : List Instr) {s t : State} (h : AgreeButReading s t) :
    GoOnAlike (execAll is s) (execAll is t) := by
  induction is generalizing s t with
  | nil => exact ⟨s, t, rfl, rfl, h⟩
  | cons i is ih => exact (exec_goOnAlike i h).andThen fun _ _ => ih

/-- Fetching does not see the reader's field. -/
theorem fetch_reading (s : State) (r : Option (Accessor × BitVec 1)) :
    fetch { s with reading := r } = ((fetch s).1, { (fetch s).2 with reading := r }) := by
  obtain ⟨enc, dec, cd, pending, cycle, reading⟩ := s
  match pending with
  | [] | .cycle _ :: _ | .read _ :: _ => rfl

theorem step_goOnAlike {s t : State} (h : AgreeButReading s t) : GoOnAlike (step s) (step t) := by
  obtain ⟨r, rfl⟩ := h
  rw [step_eq, step_eq, fetch_reading s r]
  exact execAll_goOnAlike _ ⟨r, rfl⟩

theorem stepN_goOnAlike (n : Nat) {s t : State} (h : AgreeButReading s t) : GoOnAlike (stepN n s) (stepN n t) := by
  induction n generalizing s t with
  | zero => exact ⟨s, t, rfl, rfl, h⟩
  | succ n ih => exact (step_goOnAlike h).andThen fun _ _ => ih

theorem runCycle_goOnAlike {s t : State} (h : AgreeButReading s t) : GoOnAlike (runCycle s) (runCycle t) := by
  obtain ⟨r, rfl⟩ := h
  exact stepN_goOnAlike _ ⟨r, rfl⟩

/-- The observation does not depend on the reader's field. -/
theorem observe_congr (n : Nat) {s t : State} (h : AgreeButReading s t) : observe n s = observe n t := by
  induction n generalizing s t with
  | zero => rfl
  | succ n ih =>
    obtain ⟨u, v, hu, hv, huv⟩ := runCycle_goOnAlike h
    obtain ⟨r, rfl⟩ := h
    rw [observe_of_next n hu, observe_of_next n hv, ih huv]
    rfl

/-- A read presented first has taken place when the observation begins. -/
theorem observe_read (n : Nat) (s : State) (a : Accessor) : observe n (s.present (.read a)) = observe n (s.readDisp a) := by
  cases n with
  | zero => rfl
  | succ n =>
    obtain ⟨t, ht, -⟩ := exists_runCycle (s.readDisp a)
    rw [observe_of_next n ht, observe_of_next n ((runCycle_read s a).trans ht), State.present_ports, State.readDisp_ports]

/-- Settles O52, by induction on the number of cycles; a read changes the reader's field only, which no observation shows. -/
theorem observationIsPortsOfEachCycle : Obligations.ObservationIsPortsOfEachCycle :=
  ⟨exists_runCycles, length_observe, fun _ _ _ _ => getElem?_observe,
    fun n s a => (observe_read n s a).trans (observe_congr n ⟨_, rfl⟩).symm⟩

end Sys2Proof.Machine
end
